-- ==== Sys2Proof/Word.lean ====
section
/-! DEFINITION. The word types of PAL_video_timing_engine: what the spec treats as bits of a fixed width. -/

namespace Sys2Proof

/-- A command word or a register: 32 bits (R10, R22). -/
abbrev Word := BitVec 32

/-- A teletext port word or result: 16 bits (R82, R190). -/
abbrev TtWord := BitVec 16

/-- A pixel byte, or one Hamming codeword: 8 bits (R80, R193). -/
abbrev Byte := BitVec 8

/-- A sample code: 12 bits, amplitude code / 2550 (R37, R132). -/
abbrev Code := BitVec 12

end Sys2Proof
end

