-- ==== Sys2Proof/Syntax.lean ====
section
/-! DEFINITION. The instructions: one constructor for each row of the opcode table (R76, R83). Every operand has the
width of its field, so an out-of-range operand has no term (R81, R198). -/

namespace Sys2Proof

inductive Instr where
  /-- `NOP` (R220) -/
  | nop
  /-- `CONFIGURE ppl` (R100) -/
  | configure (ppl : BitVec 16)
  /-- `EMIT_BROAD reps` (R134) -/
  | emitBroad (reps : BitVec 6)
  /-- `EMIT_SHORT reps` (R135) -/
  | emitShort (reps : BitVec 6)
  /-- `EMIT_PULSE width, reps` (R136) -/
  | emitPulse (reps : BitVec 6) (pw : BitVec 16)
  /-- `EMIT_BLANK` (R137) -/
  | emitBlank
  /-- `EMIT_SYNCED` (R138) -/
  | emitSynced
  /-- `EMIT_ACTIVE len` with its payload words, padding bytes and all (R139, R80; log 8) -/
  | emitActive (len : BitVec 16) (payload : List Word)
  /-- `BUF_HANDOFF` (R222) -/
  | bufHandoff
  /-- `TT.NONE` (R191) -/
  | ttNone
  /-- `TT.PARITY byte` (R192) -/
  | ttParity (byte : BitVec 8)
  /-- `TT.HAMMING nibble` (R193) -/
  | ttHamming (nibble : BitVec 4)
  /-- `TT.PKTADDR mag, pkt` (R196) -/
  | ttPktaddr (mag : BitVec 3) (pkt : BitVec 5)
  deriving DecidableEq, Repr

end Sys2Proof
end

