-- ==== Sys2Proof/WellFormed.lean ====
section
/-! DEFINITION. What a term of Instr must satisfy beyond its types: EMIT_ACTIVE carries exactly the payload words its
LEN asks for (R75, R79). Every other operand is bounded by its width. -/

namespace Sys2Proof

/-- The payload words that follow an EMIT_ACTIVE header (R75, R79). -/
def payloadWordsOfLen (len : BitVec 16) : Nat := (len.toNat + 3) / 4

/-- The decidable check behind `Instr.WellFormed`. -/
def Instr.wellFormedCheck : Instr → Bool
  | .emitActive len payload => payload.length == payloadWordsOfLen len
  | .nop => true
  | .configure _ => true
  | .emitBroad _ => true
  | .emitShort _ => true
  | .emitPulse _ _ => true
  | .emitBlank => true
  | .emitSynced => true
  | .bufHandoff => true
  | .ttNone => true
  | .ttParity _ => true
  | .ttHamming _ => true
  | .ttPktaddr _ _ => true

/-- An instruction whose payload has the length its header fixes. -/
abbrev Instr.WellFormed (i : Instr) : Prop := i.wellFormedCheck = true

end Sys2Proof
end

