-- ==== Sys2Proof/Decode.lean ====
section
/-! DEFINITION. The two decoders (Format V command words, R71-R81 and R87; Format T port words, R82-R84), the encoder
written from the same tables, and the mask and match table of R77 and R83. -/

namespace Sys2Proof

/-- Why words are no instruction. -/
inductive DecodeError where
  /-- a header word that matches no row (R78): the engine raises ILLEGAL_COMMAND -/
  | illegalCommand
  /-- fewer words than the header asks for (R79): the command is not complete yet -/
  | incompleteCommand
  /-- words left over after one command -/
  | trailingWords
  /-- a Format T word that matches no row (R84): the port answers tt_err = 1 -/
  | illegalTeletext
  deriving DecidableEq, Repr

/-! ## Format V fields (R71-R75) -/

/-- OPC, bits 31:24 (R71). -/
def opc (w : Word) : BitVec 8 := w.extractLsb' 24 8

/-- The whole body, bits 23:0 (R72). -/
def body (w : Word) : BitVec 24 := w.extractLsb' 0 24

/-- The reserved field of VC and VA, bits 23:16 (R73, R75). -/
def reservedByte (w : Word) : BitVec 8 := w.extractLsb' 16 8

/-- PPL, LEN or PW, bits 15:0 (R73, R74, R75). -/
def imm16 (w : Word) : BitVec 16 := w.extractLsb' 0 16

/-- PWSEL, bits 23:22 (R74). -/
def pwsel (w : Word) : BitVec 2 := w.extractLsb' 22 2

/-- REPS, bits 21:16 (R74). -/
def repsField (w : Word) : BitVec 6 := w.extractLsb' 16 6

/-! ## Command length (R79) -/

/-- The payload words a header fixes: an illegal header takes none (R78). -/
def payloadWords (h : Word) : Nat :=
  if opc h = 0x13#8 ∧ reservedByte h = 0#8 then payloadWordsOfLen (imm16 h) else 0

/-- A command's length in words, fixed by its header. -/
def commandLength (h : Word) : Nat := 1 + payloadWords h

/-- `complete(CMD_ASM)`: the words received are as many as the first one fixes. -/
def complete : List Word → Bool
  | [] => false
  | h :: rest => (h :: rest).length == commandLength h

/-! ## The Format V decoder (R87) -/

/-- decodeV of a header word, with the payload words that came after it. Total: every header that matches no case is
ILLEGAL. -/
def decodeCommand (h : Word) (payload : List Word) : Except DecodeError Instr :=
  if opc h = 0x00#8 then
    if body h = 0#24 then .ok .nop else .error .illegalCommand
  else if opc h = 0x01#8 then
    if reservedByte h = 0#8 then .ok (.configure (imm16 h)) else .error .illegalCommand
  else if opc h = 0x10#8 then
    if pwsel h = 0#2 then
      if imm16 h = 0#16 then .ok (.emitBroad (repsField h)) else .error .illegalCommand
    else if pwsel h = 1#2 then
      if imm16 h = 0#16 then .ok (.emitShort (repsField h)) else .error .illegalCommand
    else if pwsel h = 2#2 then .ok (.emitPulse (repsField h) (imm16 h))
    else .error .illegalCommand
  else if opc h = 0x11#8 then
    if body h = 0#24 then .ok .emitBlank else .error .illegalCommand
  else if opc h = 0x12#8 then
    if body h = 0#24 then .ok .emitSynced else .error .illegalCommand
  else if opc h = 0x13#8 then
    if reservedByte h = 0#8 then .ok (.emitActive (imm16 h) payload) else .error .illegalCommand
  else if opc h = 0x30#8 then
    if body h = 0#24 then .ok .bufHandoff else .error .illegalCommand
  else .error .illegalCommand

/-- One command from the front of a word stream, and the words after it. Payload words are never decoded as headers. -/
def decodeV : List Word → Except DecodeError (Instr × List Word)
  | [] => .error .incompleteCommand
  | h :: rest =>
    if rest.length < payloadWords h then .error .incompleteCommand
    else
      match decodeCommand h (rest.take (payloadWords h)) with
      | .ok i => .ok (i, rest.drop (payloadWords h))
      | .error e => .error e

/-! ## The Format T decoder (R82-R84) -/

/-- TOP, bits 15:12. -/
def ttTop (t : TtWord) : BitVec 4 := t.extractLsb' 12 4

/-- The reserved field, bits 11:8. -/
def ttReserved (t : TtWord) : BitVec 4 := t.extractLsb' 8 4

/-- ARG, bits 7:0. -/
def ttArg (t : TtWord) : BitVec 8 := t.extractLsb' 0 8

/-- decodeT: total, every word of no row is illegal. -/
def decodeT (t : TtWord) : Except DecodeError Instr :=
  if ttReserved t = 0#4 then
    if ttTop t = 0#4 then
      if ttArg t = 0#8 then .ok .ttNone else .error .illegalTeletext
    else if ttTop t = 1#4 then .ok (.ttParity (ttArg t))
    else if ttTop t = 2#4 then
      if t.extractLsb' 4 4 = 0#4 then .ok (.ttHamming (t.extractLsb' 0 4)) else .error .illegalTeletext
    else if ttTop t = 3#4 then .ok (.ttPktaddr (t.extractLsb' 0 3) (t.extractLsb' 3 5))
    else .error .illegalTeletext
  else .error .illegalTeletext

/-! ## The encoder -/

/-- Sub-format V0 (R72). -/
def headerV0 (o : BitVec 8) : Word := o ++ 0#24

/-- Sub-formats VC and VA (R73, R75). -/
def headerImm (o : BitVec 8) (imm : BitVec 16) : Word := o ++ 0#8 ++ imm

/-- Sub-format VS (R74). -/
def headerVS (sel : BitVec 2) (reps : BitVec 6) (pw : BitVec 16) : Word := 0x10#8 ++ sel ++ reps ++ pw

/-- Format T (R82). -/
def ttWord (top : BitVec 4) (arg : BitVec 8) : TtWord := top ++ 0#4 ++ arg

/-- What an instruction is on the block's ports: words on the command port, or one word on the teletext port (R70). -/
inductive Encoded where
  | command (words : List Word)
  | teletext (t : TtWord)
  deriving DecidableEq, Repr

/-- The header words of the Format V instructions (R76). -/
def headerNop : Word := headerV0 0x00#8
def headerConfigure (ppl : BitVec 16) : Word := headerImm 0x01#8 ppl
def headerEmitBroad (reps : BitVec 6) : Word := headerVS 0#2 reps 0#16
def headerEmitShort (reps : BitVec 6) : Word := headerVS 1#2 reps 0#16
def headerEmitPulse (reps : BitVec 6) (pw : BitVec 16) : Word := headerVS 2#2 reps pw
def headerEmitBlank : Word := headerV0 0x11#8
def headerEmitSynced : Word := headerV0 0x12#8
def headerEmitActive (len : BitVec 16) : Word := headerImm 0x13#8 len
def headerBufHandoff : Word := headerV0 0x30#8

/-- The port words of the Format T instructions (R83). -/
def wordTtNone : TtWord := ttWord 0#4 0#8
def wordTtParity (byte : BitVec 8) : TtWord := ttWord 1#4 byte
def wordTtHamming (nibble : BitVec 4) : TtWord := ttWord 2#4 (0#4 ++ nibble)
def wordTtPktaddr (mag : BitVec 3) (pkt : BitVec 5) : TtWord := ttWord 3#4 (pkt ++ mag)

/-- The words of an instruction. -/
def encode : Instr → Encoded
  | .nop => .command [headerNop]
  | .configure ppl => .command [headerConfigure ppl]
  | .emitBroad reps => .command [headerEmitBroad reps]
  | .emitShort reps => .command [headerEmitShort reps]
  | .emitPulse reps pw => .command [headerEmitPulse reps pw]
  | .emitBlank => .command [headerEmitBlank]
  | .emitSynced => .command [headerEmitSynced]
  | .emitActive len payload => .command (headerEmitActive len :: payload)
  | .bufHandoff => .command [headerBufHandoff]
  | .ttNone => .teletext wordTtNone
  | .ttParity byte => .teletext (wordTtParity byte)
  | .ttHamming nibble => .teletext (wordTtHamming nibble)
  | .ttPktaddr mag pkt => .teletext (wordTtPktaddr mag pkt)

/-- The inverse the encoder is judged by: one whole command, or one port word. -/
def decode : Encoded → Except DecodeError Instr
  | .teletext t => decodeT t
  | .command ws =>
    match decodeV ws with
    | .ok (i, []) => .ok i
    | .ok (_, _ :: _) => .error .trailingWords
    | .error e => .error e

/-! ## The mask and match tables (R77, R83) -/

/-- One row: a word w is of the row when `w &&& mask = val`. -/
structure EncodingRow (n : Nat) where
  mnemonic : String
  val : BitVec n
  mask : BitVec n
  deriving DecidableEq, Repr

def EncodingRow.selects {n : Nat} (r : EncodingRow n) (w : BitVec n) : Bool := w &&& r.mask == r.val

/-- R77. -/
def rowsV : List (EncodingRow 32) :=
  [ ⟨"NOP", 0x00000000#32, 0xFFFFFFFF#32⟩,
    ⟨"CONFIGURE", 0x01000000#32, 0xFFFF0000#32⟩,
    ⟨"EMIT_BROAD", 0x10000000#32, 0xFFC0FFFF#32⟩,
    ⟨"EMIT_SHORT", 0x10400000#32, 0xFFC0FFFF#32⟩,
    ⟨"EMIT_PULSE", 0x10800000#32, 0xFFC00000#32⟩,
    ⟨"EMIT_BLANK", 0x11000000#32, 0xFFFFFFFF#32⟩,
    ⟨"EMIT_SYNCED", 0x12000000#32, 0xFFFFFFFF#32⟩,
    ⟨"EMIT_ACTIVE", 0x13000000#32, 0xFFFF0000#32⟩,
    ⟨"BUF_HANDOFF", 0x30000000#32, 0xFFFFFFFF#32⟩ ]

/-- R83. -/
def rowsT : List (EncodingRow 16) :=
  [ ⟨"TT_NONE", 0x0000#16, 0xFFFF#16⟩,
    ⟨"TT_PARITY", 0x1000#16, 0xFF00#16⟩,
    ⟨"TT_HAMMING", 0x2000#16, 0xFFF0#16⟩,
    ⟨"TT_PKTADDR", 0x3000#16, 0xFF00#16⟩ ]

/-- The mnemonic of an instruction, as the tables spell it. -/
def Instr.mnemonic : Instr → String
  | .nop => "NOP"
  | .configure _ => "CONFIGURE"
  | .emitBroad _ => "EMIT_BROAD"
  | .emitShort _ => "EMIT_SHORT"
  | .emitPulse _ _ => "EMIT_PULSE"
  | .emitBlank => "EMIT_BLANK"
  | .emitSynced => "EMIT_SYNCED"
  | .emitActive _ _ => "EMIT_ACTIVE"
  | .bufHandoff => "BUF_HANDOFF"
  | .ttNone => "TT_NONE"
  | .ttParity _ => "TT_PARITY"
  | .ttHamming _ => "TT_HAMMING"
  | .ttPktaddr _ _ => "TT_PKTADDR"

/-! ## A table word (the host's question) -/

/-- The words of the command whose header is h and whose payload words are all zero. -/
def commandWithZeroPayload (h : Word) : List Word := h :: List.replicate (payloadWords h) 0#32

/-- The instruction of a word numbered as the opcode table numbers it: 32 bits are a header word on the command port
(payload words of zeros after it), 16 bits a word on the teletext port. The block's ports carry whole words, so no byte
order enters (R52 a). -/
def decodeTableWord (nbits w : Nat) : Option Instr :=
  if nbits = 16 ∧ w < 2 ^ 16 then (decode (.teletext (BitVec.ofNat 16 w))).toOption
  else if nbits = 32 ∧ w < 2 ^ 32 then
    (decode (.command (commandWithZeroPayload (BitVec.ofNat 32 w)))).toOption
  else none

end Sys2Proof
end

