-- ==== Sys2Proof/Config.lean ====
section
/-! DEFINITION. The implementation parameters of R10: what is fixed for one engine. The two that the spec leaves
OPEN (D6, D17) are the fields of Config; the step never changes them (log 3). -/

namespace Sys2Proof

/-- NUMERIC_MODE, the arithmetic of the timing derivation (R10, R100, D6). -/
inductive NumericMode where
  /-- exact rationals, R102-R111 -/
  | exact
  /-- IEEE 754 binary64 evaluated step by step, R112 -/
  | binary64
  deriving DecidableEq, Repr

/-- The arguments of the step that are not state (R20, last sentences; log 3). -/
structure Config where
  numericMode : NumericMode
  /-- BUF_CAP, the most samples SAMPLE_BUF holds: at most 2^32 - 1 by its width, at least 1 by `Config.valid` (R10, R62). -/
  bufCap : Word
  deriving DecidableEq, Repr

namespace Config

/-- The values "this hardware takes" (R10). -/
def default : Config := { numericMode := .exact, bufCap := 0xFFFFFFFF#32 }

/-- 1 <= BUF_CAP (R10, I18). -/
abbrev valid (c : Config) : Prop := 1 ≤ c.bufCap.toNat

/-- The assembler's default for REPS (R10, R85). -/
def defaultReps : Nat := 5

/-- Image height fixed by the standard, rows 0..624 (R10, R63). -/
def imageRows : Nat := 625

end Config

end Sys2Proof
end

