-- ==== Sys2Proof/Machine/State.lean ====
section
/-! DEFINITION. The state of the engine and its ports (R20, R44), the reasons a step can stop, and the state after
reset. Field order follows the register map (R22). -/

namespace Sys2Proof.Machine

open Sys2Proof

/-- FAULT_CODE's values (R241). Codes 8..15 are never written, so they have no term (I17; log 10). -/
inductive FaultCode where
  | none
  | configError
  | malformedRow
  | illegalCommand
  | notConfigured
  | reconfigure
  | segmentUnderflow
  | bufferOverflow
  deriving DecidableEq, Repr

/-- The events of the output history (R42, R57). -/
inductive Event where
  /-- `Handoff(buf)` (R222) -/
  | handoff (buf : List Code)
  /-- `Fault(code, info)` (R244) -/
  | fault (code : FaultCode) (info : Word)
  deriving DecidableEq, Repr

/-- What the host can do between engine steps (R9, R50, R58; log 1). -/
inductive HostAction where
  /-- write one word to the command port (R55) -/
  | commandWord (w : Word)
  /-- drive a word onto tt_in and sample the outputs (R190, R279) -/
  | teletextWord (t : TtWord)
  /-- read the register window at a byte offset, `bits` wide (R51) -/
  | registerRead (offset : BitVec 8) (bits : Nat)
  /-- write to the register window (R51: no such access exists) -/
  | registerWrite (offset : BitVec 8) (bits : Nat) (value : Nat)
  /-- pulse `rst` (R270) -/
  | assertReset
  deriving DecidableEq, Repr

/-- The machine: the engine's state (R20), the ports' wires, the host's side of the interface, and the parameters. -/
structure State where
  /-- STATUS bit 0 (R23) -/
  configured : Bool
  /-- STATUS bit 1 (R23); also the output `fault_o` (R43) -/
  faulted : Bool
  /-- FAULT_CODE (R24) -/
  faultCode : FaultCode
  /-- FAULT_INFO (R25) -/
  faultInfo : Word
  /-- PPL (R26) -/
  ppl : BitVec 16
  /-- FRONT_PORCH (R27) -/
  frontPorch : Word
  /-- HSYNC_PULSE (R28) -/
  hsyncPulse : Word
  /-- BACK_PORCH (R29) -/
  backPorch : Word
  /-- SCANLINE_SAMPLES (R30) -/
  scanlineSamples : Word
  /-- HALF_SHORT (R31) -/
  halfShort : Word
  /-- HALF_BROAD (R32) -/
  halfBroad : Word
  /-- SAMPLE_FREQ_HZ (R33) -/
  sampleFreqHz : Word
  /-- PIXEL_FREQ_HZ (R34) -/
  pixelFreqHz : Word
  /-- SAMPLE_COUNT (R35) -/
  sampleCount : Word
  /-- SAMPLE_BUF, oldest sample first (R37) -/
  sampleBuf : List Code
  /-- CMD_ASM, header first (R38) -/
  cmdAsm : List Word
  /-- tt_in, as the host drives it (R190; log 5) -/
  ttIn : TtWord
  /-- tt_out (R190; log 5) -/
  ttOut : TtWord
  /-- tt_err (R190; log 5) -/
  ttErr : Bool
  /-- the output history, oldest event first (R42); the host's side, not engine state -/
  history : List Event
  /-- what register reads returned, oldest first: offset and value; the host's side (log 6) -/
  readLog : List (BitVec 8 × Word)
  /-- the host's pending actions, next one first (log 1) -/
  hostQueue : List HostAction
  /-- the step's parameters, which no step changes (R20; log 3) -/
  config : Config
  deriving DecidableEq, Repr

/-- Why the machine stops for good. The engine's own faults (R241) are NOT here: they are next states. -/
inductive Fault where
  /-- Raised by the command port when a word arrives while STATUS.FAULT = 1: the port takes no word and the engine has
  no step; only reset lifts it (R245, I20). Safe: the model stops where the hardware is stuck. -/
  | commandPortHalted
  deriving DecidableEq, Repr

/-- What the interface gives no step for. -/
inductive Refusal where
  /-- Raised by exec's arm of an instruction that has no meaning yet; no arm of this model. Safe. -/
  | notModelled (mnemonic : String)
  /-- Raised by the register window on a read at an offset that is no multiple of 4 (R51, I16). Safe: no value is given. -/
  | misalignedRegisterRead
  /-- Raised by the register window on a read that is not 32 bits wide (R51, I16). Safe: no value is given. -/
  | registerReadWidth
  /-- Raised by the register window on any write (R51, I16). Safe: nothing is written. -/
  | registerWrite
  deriving DecidableEq, Repr

/-- The machine right after reset: every register at its value of R44; the output history empty, as the spec's runs
start; tt_in idle (log 5); no host action pending (log 2); the parameters at their defaults (R10). -/
def State.reset : State where
  configured := false
  faulted := false
  faultCode := .none
  faultInfo := 0#32
  ppl := 0#16
  frontPorch := 0#32
  hsyncPulse := 0#32
  backPorch := 0#32
  scanlineSamples := 0#32
  halfShort := 0#32
  halfBroad := 0#32
  sampleFreqHz := 0#32
  pixelFreqHz := 0#32
  sampleCount := 0#32
  sampleBuf := []
  cmdAsm := []
  ttIn := 0#16
  ttOut := 0#16
  ttErr := false
  history := []
  readLog := []
  hostQueue := []
  config := Config.default

end Sys2Proof.Machine
end

