-- ==== Sys2Proof/Machine/Flags.lean ====
section
/-! DEFINITION. The two flags and what is read from them (R23, R39, R43). There are no condition codes. -/

namespace Sys2Proof.Machine

open Sys2Proof

/-- FAULT_CODE[3:0] (R241). -/
def FaultCode.bits : FaultCode → BitVec 4
  | .none => 0#4
  | .configError => 1#4
  | .malformedRow => 2#4
  | .illegalCommand => 3#4
  | .notConfigured => 4#4
  | .reconfigure => 5#4
  | .segmentUnderflow => 6#4
  | .bufferOverflow => 7#4

/-- STATUS as the host reads it: FAULT in bit 1, CONFIGURED in bit 0, bits 31:2 zero (R23). -/
def State.statusWord (s : State) : Word := 0#30 ++ BitVec.ofBool s.faulted ++ BitVec.ofBool s.configured

/-- STATUS.CONFIGURED <- 1, by a successful CONFIGURE alone (R23, R100). -/
def State.setConfigured (s : State) : State := { s with configured := true }

/-- The output level `fault_o`: STATUS.FAULT at all times (R43, R247). -/
def State.faultO (s : State) : Bool := s.faulted

end Sys2Proof.Machine
end

