-- ==== Sys2Proof/Machine/Operands.lean ====
section
/-! DEFINITION. Operands and sample codes: the half-line length (R110), the pixel bytes of a payload (R80), the codes
of the levels (R132), and the runs the EMIT commands are made of (R131, R133). -/

namespace Sys2Proof.Machine

open Sys2Proof

/-- H = SCANLINE_SAMPLES div 2 (R110). -/
def State.halfLine (s : State) : Nat := s.scanlineSamples.toNat / 2

/-- The four bytes of a payload word, little-endian (R52 b, R80). -/
def wordBytes (w : Word) : List Byte :=
  [w.extractLsb' 0 8, w.extractLsb' 8 8, w.extractLsb' 16 8, w.extractLsb' 24 8]

/-- Payload(0), ..., Payload(len - 1): the bytes of the payload words in order, padding dropped (R80, I12). -/
def payloadBytes (len : BitVec 16) (payload : List Word) : List Byte :=
  (payload.flatMap wordBytes).take len.toNat

/-- The code of 0.0, the sync tip (R132). -/
def codeSync : Code := 0#12

/-- The code of 0.3, blanking and black (R132). -/
def codeBlank : Code := 765#12

/-- PIX(p) = 765 + 7p, which is 2550 ((p/255) * 0.7 + 0.3) in exact reals (R132, D9). -/
def codePixel (p : Byte) : Code := BitVec.ofNat 12 (765 + 7 * p.toNat)

/-- rep(n, c) (R12). -/
def rep (n : Nat) (c : Code) : List Code := List.replicate n c

/-- One repetition of a sync block: pw SYNC, then BLANK to the end of the half-line h (R133). -/
def pulseHalfLine (pw h : Nat) : List Code := rep pw codeSync ++ rep (h - pw) codeBlank

/-- SyncBlock(pw, reps) (R133); its callers have pw <= h (log 11). -/
def syncBlock (pw h reps : Nat) : List Code := (List.replicate reps (pulseHalfLine pw h)).flatten

end Sys2Proof.Machine
end

