-- ==== Sys2Proof/Machine/Binary64.lean ====
section
/-! DEFINITION. IEEE 754 binary64 on non-negative finite values, as R112 and R142 use it: one correctly rounded result
per operation, to nearest, ties to even. The rules name the standard and mark it as general knowledge (G4; log 7).
A value is an exact dyadic `sig * 2^exp`; no operation of R112 or R142 overflows, is negative, or is a NaN. -/

namespace Sys2Proof.Machine

/-- The value `sig * 2^exp`. Results are normalised: sig is 0, or in [2^52, 2^53), or smaller at the subnormal exponent. -/
structure Binary64 where
  sig : Nat
  exp : Int
  deriving DecidableEq, Repr

namespace Binary64

/-- 2^e as a numerator, and as a denominator: one of the two is 1. -/
def pow2Num (e : Int) : Nat := 2 ^ e.toNat
def pow2Den (e : Int) : Nat := 2 ^ (-e).toNat

/-- The exact value. -/
def toRat (a : Binary64) : Rat := (a.sig * pow2Num a.exp : Nat) / (pow2Den a.exp : Nat)

/-- A non-negative finite value from its 64-bit pattern: biased exponent in bits 62:52, fraction in bits 51:0. -/
def ofBits (b : BitVec 64) : Binary64 :=
  let e := (b.extractLsb' 52 11).toNat
  let f := (b.extractLsb' 0 52).toNat
  if e = 0 then ⟨f, -1074⟩ else ⟨2 ^ 52 + f, (e : Int) - 1075⟩

/-- `num / den` rounded to an integer, to nearest, ties to even. -/
def roundNat (num den : Nat) : Nat :=
  let q := num / den
  let r := num % den
  if 2 * r < den then q
  else if den < 2 * r then q + 1
  else if q % 2 = 0 then q else q + 1

/-- `num / den` rounded to a multiple of 2^e; a significand of 2^53 is renormalised. -/
def roundAt (num den : Nat) (e : Int) : Binary64 :=
  let q := roundNat (num * pow2Den e) (den * pow2Num e)
  if q = 2 ^ 53 then ⟨2 ^ 52, e + 1⟩ else ⟨q, e⟩

/-- The exponent of the last place for `num / den`: the value lies in [2^(e+52), 2^(e+53)), or e is the subnormal one. -/
def ulpExp (num den : Nat) : Int :=
  let e := (num.log2 : Int) - (den.log2 : Int) - 53
  let e := if num * pow2Den e < 2 ^ 53 * (den * pow2Num e) then e else e + 1
  max e (-1074)

/-- The binary64 value nearest `num / den`. -/
def ofRatio (num den : Nat) : Binary64 :=
  if num = 0 then ⟨0, 0⟩ else roundAt num den (ulpExp num den)

/-- An integer converted to binary64; exact below 2^53. -/
def ofNat (n : Nat) : Binary64 := ofRatio n 1

def mul (a b : Binary64) : Binary64 :=
  ofRatio (a.sig * b.sig * pow2Num (a.exp + b.exp)) (pow2Den (a.exp + b.exp))

def div (a b : Binary64) : Binary64 :=
  ofRatio (a.sig * pow2Num (a.exp - b.exp)) (b.sig * pow2Den (a.exp - b.exp))

/-- `a.sig` at the exponent `min a.exp b.exp`. -/
def alignTo (e : Int) (a : Binary64) : Nat := a.sig * pow2Num (a.exp - e)

def add (a b : Binary64) : Binary64 :=
  let e := min a.exp b.exp
  ofRatio ((alignTo e a + alignTo e b) * pow2Num e) (pow2Den e)

/-- `a - b` for b at most a. -/
def sub (a b : Binary64) : Binary64 :=
  let e := min a.exp b.exp
  ofRatio ((alignTo e a - alignTo e b) * pow2Num e) (pow2Den e)

/-- Conversion to an integer by truncation toward zero. -/
def trunc (a : Binary64) : Nat := a.sig * pow2Num a.exp / pow2Den a.exp

end Binary64

end Sys2Proof.Machine
end

