-- ==== Sys2Proof/Machine/Profile.lean ====
section
/-! DEFINITION. The timing derivation: the profile as a function of pixelsPerLine and NUMERIC_MODE (R101-R118). -/

namespace Sys2Proof.Machine

open Sys2Proof

/-- The eight counts and frequencies that CONFIGURE latches (R100), as exact naturals. -/
structure TimingProfile where
  frontPorch : Nat
  hsyncPulse : Nat
  backPorch : Nat
  scanlineSamples : Nat
  halfShort : Nat
  halfBroad : Nat
  sampleFreqHz : Nat
  pixelFreqHz : Nat
  deriving DecidableEq, Repr

/-! ## EXACT (R102-R109, R118): truncating integer forms -/

/-- R103 -/
def frontPorchExact (n : Nat) : Nat := 33 * n / 1039
/-- R104 -/
def hsyncPulseExact (n : Nat) : Nat := 94 * n / 1039
/-- R105 -/
def backPorchExact (n : Nat) : Nat := 114 * n / 1039
/-- R106 -/
def scanlineSamplesExact (n : Nat) : Nat := frontPorchExact n + hsyncPulseExact n + n + backPorchExact n
/-- R107 -/
def sampleFreqHzExact (n : Nat) : Nat := 15625 * scanlineSamplesExact n
/-- R108 -/
def halfShortExact (n : Nat) : Nat := 47 * n / 1039
/-- R109 -/
def halfBroadExact (n : Nat) : Nat := 546 * n / 1039
/-- R118 -/
def pixelFreqHzExact (n : Nat) : Nat := 20000000 * n / 1039

def profileExact (n : Nat) : TimingProfile where
  frontPorch := frontPorchExact n
  hsyncPulse := hsyncPulseExact n
  backPorch := backPorchExact n
  scanlineSamples := scanlineSamplesExact n
  halfShort := halfShortExact n
  halfBroad := halfBroadExact n
  sampleFreqHz := sampleFreqHzExact n
  pixelFreqHz := pixelFreqHzExact n

/-! ## BINARY64 (R112): the constants by their bit patterns, then the pseudocode step by step -/

/-- b(51.95e-6) -/
def b64ActivePeriod : Binary64 := .ofBits 0x3F0B3C9C6880F2DA#64
/-- b(1.65e-6) -/
def b64FrontPorch : Binary64 := .ofBits 0x3EBBAEB22F9294C3#64
/-- b(4.7e-6) -/
def b64Hsync : Binary64 := .ofBits 0x3ED3B69629A290B9#64
/-- b(5.7e-6) -/
def b64BackPorch : Binary64 := .ofBits 0x3ED7E85411D00C1C#64
/-- b(2.35e-6) -/
def b64ShortPulse : Binary64 := .ofBits 0x3EC3B69629A290B9#64
/-- b(32e-6) -/
def b64HalfLine : Binary64 := .ofBits 0x3F00C6F7A0B5ED8D#64
/-- b(64e-6) -/
def b64Line : Binary64 := .ofBits 0x3F10C6F7A0B5ED8D#64

/-- pf = fl(n / b(51.95e-6)) -/
def pixelFreq64 (n : Nat) : Binary64 := (Binary64.ofNat n).div b64ActivePeriod

def frontPorch64 (n : Nat) : Nat := (b64FrontPorch.mul (pixelFreq64 n)).trunc
def hsyncPulse64 (n : Nat) : Nat := (b64Hsync.mul (pixelFreq64 n)).trunc
def backPorch64 (n : Nat) : Nat := (b64BackPorch.mul (pixelFreq64 n)).trunc
def scanlineSamples64 (n : Nat) : Nat := frontPorch64 n + hsyncPulse64 n + n + backPorch64 n
def sampleFreqHz64 (n : Nat) : Nat := ((Binary64.ofNat (scanlineSamples64 n)).div b64Line).trunc
def halfShort64 (n : Nat) : Nat := (b64ShortPulse.mul (pixelFreq64 n)).trunc
def halfBroad64 (n : Nat) : Nat := ((b64HalfLine.sub b64Hsync).mul (pixelFreq64 n)).trunc
def pixelFreqHz64 (n : Nat) : Nat := (pixelFreq64 n).trunc

def profile64 (n : Nat) : TimingProfile where
  frontPorch := frontPorch64 n
  hsyncPulse := hsyncPulse64 n
  backPorch := backPorch64 n
  scanlineSamples := scanlineSamples64 n
  halfShort := halfShort64 n
  halfBroad := halfBroad64 n
  sampleFreqHz := sampleFreqHz64 n
  pixelFreqHz := pixelFreqHz64 n

/-! ## The profile of a mode, in the registers and out of them -/

/-- `compute(pixelsPerLine)` under NUMERIC_MODE (R100, R116). -/
def timingProfile : NumericMode → Nat → TimingProfile
  | .exact, n => profileExact n
  | .binary64, n => profile64 n

/-- The profile registers written with a profile's values; every value fits its register (R114). -/
def State.withProfile (p : TimingProfile) (s : State) : State :=
  { s with
    frontPorch := BitVec.ofNat 32 p.frontPorch
    hsyncPulse := BitVec.ofNat 32 p.hsyncPulse
    backPorch := BitVec.ofNat 32 p.backPorch
    scanlineSamples := BitVec.ofNat 32 p.scanlineSamples
    halfShort := BitVec.ofNat 32 p.halfShort
    halfBroad := BitVec.ofNat 32 p.halfBroad
    sampleFreqHz := BitVec.ofNat 32 p.sampleFreqHz
    pixelFreqHz := BitVec.ofNat 32 p.pixelFreqHz }

/-- The profile the registers hold. -/
def State.profile (s : State) : TimingProfile where
  frontPorch := s.frontPorch.toNat
  hsyncPulse := s.hsyncPulse.toNat
  backPorch := s.backPorch.toNat
  scanlineSamples := s.scanlineSamples.toNat
  halfShort := s.halfShort.toNat
  halfBroad := s.halfBroad.toNat
  sampleFreqHz := s.sampleFreqHz.toNat
  pixelFreqHz := s.pixelFreqHz.toNat

/-- pixelFrequency, in hertz: the exact rational in EXACT mode, the binary64 value in BINARY64 mode; defined only while
CONFIGURED = 1 (R36, R102). -/
def State.pixelFrequency (s : State) : Option Rat :=
  if s.configured then
    match s.config.numericMode with
    | .exact => some (20000000 * (s.ppl.toNat : Rat) / 1039)
    | .binary64 => some (pixelFreq64 s.ppl.toNat).toRat
  else none

end Sys2Proof.Machine
end

