-- ==== Sys2Proof/Machine/Ops.lean ====
section
/-! DEFINITION. The named operations every meaning is written with: the output history, appending to the sample buffer,
taking a fault and the reset that returns from it, the frame of the EMIT commands, the register window and the
teletext wires. -/

namespace Sys2Proof.Machine

open Sys2Proof

/-- Emit(event): the newest event last (R12, R57). -/
def State.emitEvent (e : Event) (s : State) : State := { s with history := s.history ++ [e] }

/-! ## The sample buffer (R131) -/

/-- The codes go to the end of SAMPLE_BUF, and their number onto SAMPLE_COUNT. -/
def State.appendCodes (codes : List Code) (s : State) : State :=
  { s with
    sampleBuf := s.sampleBuf ++ codes
    sampleCount := s.sampleCount + BitVec.ofNat 32 codes.length }

/-- Append(c, n) of R131. -/
def State.append (c : Code) (n : Nat) (s : State) : State := s.appendCodes (rep n c)

/-- CheckCap(g) holds: evaluated in unbounded integers, so it cannot wrap (R131, R62). -/
def State.fitsCapacity (g : Nat) (s : State) : Bool := s.sampleCount.toNat + g ≤ s.config.bufCap.toNat

/-- The buffer handed over by value, and a new one begun (R222). -/
def State.handOff (s : State) : State :=
  { s.emitEvent (.handoff s.sampleBuf) with sampleBuf := [], sampleCount := 0#32 }

/-! ## Taking a fault, and the way back (R244, R246, R270) -/

/-- raise Fault(CODE) for the command whose header word is `header` (R243, R244; log 8). The engine's halt is the
command port's (R245, Ports.lean). -/
def State.raiseFault (code : FaultCode) (header : Word) (s : State) : State :=
  { s.emitEvent (.fault code header) with
    faultCode := code
    faultInfo := header
    faulted := true
    cmdAsm := [] }

/-- `rst`: every engine register, flag, SAMPLE_BUF and CMD_ASM take their values of R44; the output history, the
teletext wires, the host's side and the parameters stay (R270, R272, R273). No command returns from a fault (R246). -/
def State.resetEngine (s : State) : State :=
  { State.reset with
    ttIn := s.ttIn
    ttOut := s.ttOut
    ttErr := s.ttErr
    history := s.history
    readLog := s.readLog
    hostQueue := s.hostQueue
    config := s.config }

/-! ## The frame of the EMIT commands (R130, R242) -/

/-- NOT_CONFIGURED, then the command's own operand check, then capacity for the growth g; then all the codes at once. -/
def emitFrame (header : Word) (operandFault : Option FaultCode) (g : Nat) (codes : List Code) (s : State) : State :=
  if s.configured = false then s.raiseFault .notConfigured header
  else
    match operandFault with
    | some code => s.raiseFault code header
    | none =>
      if s.fitsCapacity g then s.appendCodes codes
      else s.raiseFault .bufferOverflow header

/-! ## The register window (R22, R51) -/

/-- The 32-bit value at a byte offset of the map; 0 where the table has no register. -/
def State.registerAt (offset : BitVec 8) (s : State) : Word :=
  if offset = 0x00#8 then s.statusWord
  else if offset = 0x04#8 then s.faultCode.bits.setWidth 32
  else if offset = 0x08#8 then s.faultInfo
  else if offset = 0x0C#8 then s.ppl.setWidth 32
  else if offset = 0x10#8 then s.frontPorch
  else if offset = 0x14#8 then s.hsyncPulse
  else if offset = 0x18#8 then s.backPorch
  else if offset = 0x1C#8 then s.scanlineSamples
  else if offset = 0x20#8 then s.halfShort
  else if offset = 0x24#8 then s.halfBroad
  else if offset = 0x28#8 then s.sampleFreqHz
  else if offset = 0x2C#8 then s.pixelFreqHz
  else if offset = 0x30#8 then s.sampleCount
  else 0#32

/-- An aligned 32-bit read returns the register and changes nothing in the block; the host keeps the value (R51, R54,
R56; log 6). Every other read is refused. -/
def State.readRegister (offset : BitVec 8) (bits : Nat) (s : State) : Host.Outcome State Fault Refusal :=
  if bits ≠ 32 then .refused .registerReadWidth
  else if offset.toNat % 4 ≠ 0 then .refused .misalignedRegisterRead
  else .next { s with readLog := s.readLog ++ [(offset, s.registerAt offset)] }

/-! ## The teletext wires (R190; log 5) -/

/-- tt_in takes a word and the outputs follow at once; nothing else changes (R199). -/
def State.driveTeletext (t result : TtWord) (err : Bool) (s : State) : State :=
  { s with ttIn := t, ttOut := result, ttErr := err }

end Sys2Proof.Machine
end

