-- ==== Sys2Proof/Machine/Control.lean ====
section
/-! DEFINITION. The meanings of NOP and BUF_HANDOFF (45_control.md). Neither needs CONFIGURED (R220, R222). -/

namespace Sys2Proof.Machine

open Sys2Proof

/-- `NOP` (R220). -/
def execNop (s : State) : Host.Outcome State Fault Refusal := .next s

/-- `BUF_HANDOFF` (R222). -/
def execBufHandoff (s : State) : Host.Outcome State Fault Refusal := .next s.handOff

end Sys2Proof.Machine
end

