-- ==== Sys2Proof/Machine/Teletext.lean ====
section
/-! DEFINITION. The teletext encoder (44_teletext.md): parity, the Hamming 8/4 codeword, the packet address, and the
meanings of the four port operations. -/

namespace Sys2Proof.Machine

open Sys2Proof

/-- v[0] xor ... xor v[7]. -/
def xorFold (v : Byte) : Bool :=
  v.getLsbD 0 ^^ v.getLsbD 1 ^^ v.getLsbD 2 ^^ v.getLsbD 3 ^^ v.getLsbD 4 ^^ v.getLsbD 5 ^^ v.getLsbD 6 ^^ v.getLsbD 7

/-- One bit in place. -/
def bitAt (b : Bool) (k : Nat) : Byte := (BitVec.ofBool b).setWidth 8 <<< k

/-- parityBit (R192): the bits of `byte | 0x80` folded to one. -/
def parityBit (byte : Byte) : Bool := xorFold (byte ||| 0x80#8)

/-- Ham (R193), in the source's bit order p1,d1,p2,d2,p3,d3,d4,p4 from the least significant bit (G1). -/
def ham (x : BitVec 4) : Byte :=
  let d1 := x.getLsbD 0
  let d2 := x.getLsbD 1
  let d3 := x.getLsbD 2
  let d4 := x.getLsbD 3
  let p1 := true ^^ d1 ^^ d3 ^^ d4
  let p2 := true ^^ d1 ^^ d2 ^^ d4
  let p3 := true ^^ d1 ^^ d2 ^^ d3
  let p4 := true ^^ p1 ^^ d1 ^^ p2 ^^ d2 ^^ p3 ^^ d3 ^^ d4
  bitAt p4 7 ||| bitAt d4 6 ||| bitAt d3 5 ||| bitAt p3 4 ||| bitAt d2 3 ||| bitAt p2 2 ||| bitAt d1 1 ||| bitAt p1 0

/-- The nibble of the low-address byte: `(mag & 0x7) | ((pkt & 0x1) << 3)` (R196). -/
def addressLowNibble (mag : BitVec 3) (pkt : BitVec 5) : BitVec 4 :=
  (mag &&& 0x7#3).setWidth 4 ||| ((pkt &&& 0x1#5).setWidth 4 <<< 3)

/-- The nibble of the high-address byte: `pkt >> 1`, in 0..15 for a 5-bit packet number (R196). -/
def addressHighNibble (pkt : BitVec 5) : BitVec 4 := (pkt >>> 1).setWidth 4

/-- packetAddress: the list [high, low] (R196; C1: the formula, not the source's literal). -/
def packetAddress (mag : BitVec 3) (pkt : BitVec 5) : List Byte :=
  [ham (addressHighNibble pkt), ham (addressLowNibble mag pkt)]

/-- tt_out of TT_PKTADDR: list element 0 in bits 7:0, element 1 in bits 15:8 (R52 d, R196, D25). -/
def ttPktaddrOut (mag : BitVec 3) (pkt : BitVec 5) : TtWord :=
  ham (addressLowNibble mag pkt) ++ ham (addressHighNibble pkt)

/-- tt_out of TT_PARITY (R192). -/
def ttParityOut (byte : Byte) : TtWord := (BitVec.ofBool (parityBit byte)).setWidth 16

/-- tt_out of TT_HAMMING (R193). -/
def ttHammingOut (nibble : BitVec 4) : TtWord := (ham nibble).setWidth 16

/-- `TT.NONE` (R191). -/
def execTtNone (s : State) : Host.Outcome State Fault Refusal :=
  .next (s.driveTeletext wordTtNone 0#16 false)

/-- `TT.PARITY byte` (R192). -/
def execTtParity (byte : BitVec 8) (s : State) : Host.Outcome State Fault Refusal :=
  .next (s.driveTeletext (wordTtParity byte) (ttParityOut byte) false)

/-- `TT.HAMMING nibble` (R193). -/
def execTtHamming (nibble : BitVec 4) (s : State) : Host.Outcome State Fault Refusal :=
  .next (s.driveTeletext (wordTtHamming nibble) (ttHammingOut nibble) false)

/-- `TT.PKTADDR mag, pkt` (R196). -/
def execTtPktaddr (mag : BitVec 3) (pkt : BitVec 5) (s : State) : Host.Outcome State Fault Refusal :=
  .next (s.driveTeletext (wordTtPktaddr mag pkt) (ttPktaddrOut mag pkt) false)

/-- TT: the port's total function of its input word (R190), by the match and mask rows of R83; every other word is
illegal (R84, R197). Written apart from decodeT, so that the wires' invariant says something about both. -/
def ttOutputs (t : TtWord) : TtWord × Bool :=
  if t = 0x0000#16 then (0x0000#16, false)
  else if t &&& 0xFF00#16 = 0x1000#16 then (ttParityOut (t.setWidth 8), false)
  else if t &&& 0xFFF0#16 = 0x2000#16 then (ttHammingOut (t.setWidth 4), false)
  else if t &&& 0xFF00#16 = 0x3000#16 then (ttPktaddrOut (t.setWidth 3) ((t >>> 3).setWidth 5), false)
  else (0x0000#16, true)

end Sys2Proof.Machine
end

