-- ==== Sys2Proof/Machine/TimingModel.lean ====
section
/-! DEFINITION. The meaning of CONFIGURE (41_timing_model.md, R100). -/

namespace Sys2Proof.Machine

open Sys2Proof

/-- The success path of R100: PPL, the eight profile registers of the engine's NUMERIC_MODE, CONFIGURED. -/
def State.latchProfile (ppl : BitVec 16) (s : State) : State :=
  ({ s with ppl := ppl }.withProfile (timingProfile s.config.numericMode ppl.toNat)).setConfigured

/-- `CONFIGURE ppl` (R100): RECONFIGURE, then CONFIG_ERROR, then the profile (R242). -/
def execConfigure (ppl : BitVec 16) (s : State) : Host.Outcome State Fault Refusal :=
  if s.configured then .next (s.raiseFault .reconfigure (headerConfigure ppl))
  else if ppl = 0#16 then .next (s.raiseFault .configError (headerConfigure ppl))
  else .next (s.latchProfile ppl)

end Sys2Proof.Machine
end

