-- ==== Sys2Proof/Machine/WaveformBuilder.lean ====
section
/-! DEFINITION. The meanings of the six EMIT commands (42_waveform_builder.md), each the frame of R130 with its own
operand check, growth and segments (R140). -/

namespace Sys2Proof.Machine

open Sys2Proof

/-- `EMIT_BROAD reps` (R134). -/
def execEmitBroad (reps : BitVec 6) (s : State) : Host.Outcome State Fault Refusal :=
  .next (emitFrame (headerEmitBroad reps) none (reps.toNat * s.halfLine)
    (syncBlock s.halfBroad.toNat s.halfLine reps.toNat) s)

/-- `EMIT_SHORT reps` (R135). -/
def execEmitShort (reps : BitVec 6) (s : State) : Host.Outcome State Fault Refusal :=
  .next (emitFrame (headerEmitShort reps) none (reps.toNat * s.halfLine)
    (syncBlock s.halfShort.toNat s.halfLine reps.toNat) s)

/-- EMIT_PULSE's own check, made even when reps = 0 (R136). -/
def pulseFault (pw : BitVec 16) (s : State) : Option FaultCode :=
  if s.halfLine < pw.toNat then some .segmentUnderflow else none

/-- `EMIT_PULSE pw, reps` (R136). -/
def execEmitPulse (reps : BitVec 6) (pw : BitVec 16) (s : State) : Host.Outcome State Fault Refusal :=
  .next (emitFrame (headerEmitPulse reps pw) (pulseFault pw s) (reps.toNat * s.halfLine)
    (syncBlock pw.toNat s.halfLine reps.toNat) s)

/-- `EMIT_BLANK` (R137). -/
def execEmitBlank (s : State) : Host.Outcome State Fault Refusal :=
  .next (emitFrame headerEmitBlank none s.halfLine (rep s.halfLine codeBlank) s)

/-- The half-line of EMIT_SYNCED: sync pulse, back porch, and the rest of the half-line (R138; log 11). -/
def syncedHalfLine (s : State) : List Code :=
  rep s.hsyncPulse.toNat codeSync ++ rep s.backPorch.toNat codeBlank ++
    rep (s.halfLine - s.hsyncPulse.toNat - s.backPorch.toNat) codeBlank

/-- `EMIT_SYNCED` (R138). -/
def execEmitSynced (s : State) : Host.Outcome State Fault Refusal :=
  .next (emitFrame headerEmitSynced none s.halfLine (syncedHalfLine s) s)

/-- EMIT_ACTIVE's own check, made when all payload words have arrived (R139). -/
def rowFault (len : BitVec 16) (s : State) : Option FaultCode :=
  if len = s.ppl then none else some .malformedRow

/-- The scanline of EMIT_ACTIVE: sync pulse, back porch, one code per pixel byte, front porch (R139). -/
def activeScanline (len : BitVec 16) (payload : List Word) (s : State) : List Code :=
  rep s.hsyncPulse.toNat codeSync ++ rep s.backPorch.toNat codeBlank ++
    (payloadBytes len payload).map codePixel ++ rep s.frontPorch.toNat codeBlank

/-- `EMIT_ACTIVE len` with its payload words (R139). -/
def execEmitActive (len : BitVec 16) (payload : List Word) (s : State) : Host.Outcome State Fault Refusal :=
  .next (emitFrame (headerEmitActive len) (rowFault len s) s.scanlineSamples.toNat
    (activeScanline len payload s) s)

end Sys2Proof.Machine
end

