-- ==== Sys2Proof/Machine/Dispatch.lean ====
section
/-! DEFINITION. exec: one arm for each instruction, each a direct call of its meaning. -/

namespace Sys2Proof.Machine

open Sys2Proof

def exec (i : Instr) (s : State) : Host.Outcome State Fault Refusal :=
  match i with
  | .nop => Sys2Proof.Machine.execNop s
  | .configure ppl => Sys2Proof.Machine.execConfigure ppl s
  | .emitBroad reps => Sys2Proof.Machine.execEmitBroad reps s
  | .emitShort reps => Sys2Proof.Machine.execEmitShort reps s
  | .emitPulse reps pw => Sys2Proof.Machine.execEmitPulse reps pw s
  | .emitBlank => Sys2Proof.Machine.execEmitBlank s
  | .emitSynced => Sys2Proof.Machine.execEmitSynced s
  | .emitActive len payload => Sys2Proof.Machine.execEmitActive len payload s
  | .bufHandoff => Sys2Proof.Machine.execBufHandoff s
  | .ttNone => Sys2Proof.Machine.execTtNone s
  | .ttParity byte => Sys2Proof.Machine.execTtParity byte s
  | .ttHamming nibble => Sys2Proof.Machine.execTtHamming nibble s
  | .ttPktaddr mag pkt => Sys2Proof.Machine.execTtPktaddr mag pkt s

end Sys2Proof.Machine
end

