-- ==== Sys2Proof/Machine/Ports.lean ====
section
/-! DEFINITION. The block's ports: what each host action does (R50-R57, R190, R245, R270). -/

namespace Sys2Proof.Machine

open Sys2Proof

/-- CMD_ASM <- [] once a command has executed (R55, last line). -/
def afterCommand : Host.Outcome State Fault Refusal → Host.Outcome State Fault Refusal
  | .next s => .next { s with cmdAsm := [] }
  | .fault r => .fault r
  | .refused r => .refused r

/-- `execute(CMD_ASM)` of a complete command: decode, then the command's rule; an illegal header raises ILLEGAL_COMMAND
with itself as FAULT_INFO (R55, R78, R87, R243). An empty CMD_ASM is no command and is never complete. -/
def State.executeCommand (s : State) : Host.Outcome State Fault Refusal :=
  match s.cmdAsm with
  | [] => .next s
  | header :: payload =>
    match decodeCommand header payload with
    | .ok i => exec i s
    | .error _ => .next (s.raiseFault .illegalCommand header)

/-- A word arrives at the command port: the engine step of R55. A halted engine takes no word (R245; log 4). -/
def State.takeCommandWord (w : Word) (s : State) : Host.Outcome State Fault Refusal :=
  if s.faulted then .fault .commandPortHalted
  else
    let received := { s with cmdAsm := s.cmdAsm ++ [w] }
    if complete received.cmdAsm then afterCommand received.executeCommand else .next received

/-- A word is driven onto tt_in: a legal word has its operation's outputs, an illegal one tt_out = 0 and tt_err = 1
(R190, R197), whatever the engine's state (R199). -/
def State.presentTeletext (t : TtWord) (s : State) : Host.Outcome State Fault Refusal :=
  match decodeT t with
  | .ok i => exec i s
  | .error _ => .next (s.driveTeletext t 0#16 true)

/-- One host action, and the engine step it causes (R58). -/
def State.perform (a : HostAction) (s : State) : Host.Outcome State Fault Refusal :=
  match a with
  | .commandWord w => s.takeCommandWord w
  | .teletextWord t => s.presentTeletext t
  | .registerRead offset bits => s.readRegister offset bits
  | .registerWrite _ _ _ => .refused .registerWrite
  | .assertReset => .next s.resetEngine

/-- The next action of the host. With none pending the block waits, and nothing changes (R271, R276; log 1). -/
def State.advance (s : State) : Host.Outcome State Fault Refusal :=
  match s.hostQueue with
  | [] => .next s
  | a :: rest => ({ s with hostQueue := rest } : State).perform a

/-- A command brought to the point where its last word is the host's next action: the words before it are in CMD_ASM
(log 2). -/
def State.withCommandArriving (header : Word) (s : State) : State :=
  match payloadWords header with
  | 0 => { s with cmdAsm := [], hostQueue := .commandWord header :: s.hostQueue }
  | k + 1 => { s with cmdAsm := header :: List.replicate k 0#32, hostQueue := .commandWord 0#32 :: s.hostQueue }

/-- A teletext word as the host's next action. -/
def State.withTeletextArriving (t : TtWord) (s : State) : State :=
  { s with hostQueue := .teletextWord t :: s.hostQueue }

end Sys2Proof.Machine
end

