-- ==== Sys2Proof/Machine/Step.lean ====
section
/-! DEFINITION. One step of the block and its host: the host's next pending action, and the engine step it causes. -/

namespace Sys2Proof.Machine

open Sys2Proof

def step (s : State) : Host.Outcome State Fault Refusal := s.advance

/-- s with the instruction of a table word arriving, so that the next step runs it: 16 bits on the teletext port, 32 bits
(a header word, its payload words all zero) on the command port (log 2). -/
def State.withFetchWord (s : State) (nbits w : Nat) : State :=
  if nbits = 16 then s.withTeletextArriving (BitVec.ofNat 16 w)
  else s.withCommandArriving (BitVec.ofNat 32 w)

end Sys2Proof.Machine
end

