-- ==== Sys2Proof/Machine/HostView.lean ====
section
/-! DEFINITION. What the host makes of what it receives: the amplitude of a code (R37, R132) and its binary64 conversion,
which is outside the block (R142); and the growth of a command, computable ahead of time (R140). -/

namespace Sys2Proof.Machine

open Sys2Proof

/-- The amplitude a code stands for: c / 2550 (R132). -/
def amplitude (c : Code) : Rat := (c.toNat : Rat) / 2550

/-- b(0.3) and b(0.7) (R142). -/
def b64Blank : Binary64 := .ofBits 0x3FD3333333333333#64
def b64Span : Binary64 := .ofBits 0x3FE6666666666666#64

/-- fl(fl(fl(p / 255) * b(0.7)) + b(0.3)) (R142). -/
def pixelAmplitude64 (p : Nat) : Binary64 :=
  (((Binary64.ofNat p).div (Binary64.ofNat 255)).mul b64Span).add b64Blank

/-- The host's conversion of a code the engine emits: SYNC, or 765 + 7p; no other code has one (R142, R132). -/
def amplitude64 (c : Code) : Option Binary64 :=
  if c = codeSync then some ⟨0, 0⟩
  else if 765 ≤ c.toNat ∧ (c.toNat - 765) % 7 = 0 ∧ c.toNat ≤ 2550 then some (pixelAmplitude64 ((c.toNat - 765) / 7))
  else none

/-- The growth g of each command (R140); a command that is no EMIT appends nothing. -/
def growth (s : State) : Instr → Nat
  | .emitBroad reps => reps.toNat * s.halfLine
  | .emitShort reps => reps.toNat * s.halfLine
  | .emitPulse reps _ => reps.toNat * s.halfLine
  | .emitBlank => s.halfLine
  | .emitSynced => s.halfLine
  | .emitActive _ _ => s.scanlineSamples.toNat
  | .nop => 0
  | .configure _ => 0
  | .bufHandoff => 0
  | .ttNone => 0
  | .ttParity _ => 0
  | .ttHamming _ => 0
  | .ttPktaddr _ _ => 0

end Sys2Proof.Machine
end

