-- ==== Sys2Proof/Machine/FrameSequence.lean ====
section
/-! DEFINITION. The reference host program COMPOSE (43_frame_sequence.md) and the pseudo-instructions it is written in
(R86). It is the host's: it adds no state and no behaviour to the block (R6). -/

namespace Sys2Proof.Machine

open Sys2Proof

/-- Pixel bytes packed four to a word, pixel k in bits 8(k mod 4)+7 : 8(k mod 4), padding bytes 0 (R80, R85). -/
def packBytes : List Byte → List Word
  | [] => []
  | [a] => [0#24 ++ a]
  | [a, b] => [0#16 ++ b ++ a]
  | [a, b, c] => [0#8 ++ c ++ b ++ a]
  | a :: b :: c :: d :: rest => (d ++ c ++ b ++ a) :: packBytes rest

/-- `VSYNC` and `EQUALIZE` (R86). -/
def vsync : Instr := .emitBroad 5#6
def equalize : Instr := .emitShort 5#6

/-- The row the host has, sent as it is: LEN is its length (R172, R176). A row whose length does not fit LEN has no
encoding: it is rejected, never masked (R85; log 13). -/
def rowCommand (row : List Byte) : Option Instr :=
  if row.length < 2 ^ 16 then some (.emitActive (BitVec.ofNat 16 row.length) (packBytes row)) else none

/-- The source image: 625 rows of luma bytes (R63, R170). -/
abbrev SourceImage := List (List Byte)

/-- `ROW r` (R86). A row that the host's image does not have has no encoding: DESIGN CHOICE (log 13). -/
def rowOf (image : SourceImage) (r : Nat) : Option Instr := do rowCommand (← image[r]?)

/-- Rows 0, 2, ..., 608 (R171 step 2, R172). -/
def field1Rows : List Nat := (List.range 305).map (2 * ·)

/-- Rows 1, 3, ..., 607 (R171 step 5, R172); rows 609..624 are never read (C3). -/
def field2Rows : List Nat := (List.range 304).map (2 * · + 1)

/-- `FRAME`: steps 1 to 7 of R171, in the listed order (C7). Where one of the rows 0..608 has no encoding, outside the
precondition of R170, the frame has none: DESIGN CHOICE (log 13). -/
def composeFrame (image : SourceImage) : Option (List Instr) := do
  let field1 ← field1Rows.mapM (rowOf image)
  let field2 ← field2Rows.mapM (rowOf image)
  return [vsync, equalize] ++ field1 ++ [equalize] ++ [vsync, equalize, .emitBlank] ++ field2 ++
    [.emitSynced, equalize] ++ [.bufHandoff]

/-- The words of a command; a teletext operation has none on the command port. -/
def commandWords (i : Instr) : List Word :=
  match encode i with
  | .command ws => ws
  | .teletext _ => []

/-- The host's actions that send a list of instructions, each to its own port. -/
def hostActionsOf (i : Instr) : List HostAction :=
  match encode i with
  | .command ws => ws.map .commandWord
  | .teletext t => [.teletextWord t]

/-- COMPOSE(image) as the host's actions (R170). -/
def composeActions (image : SourceImage) : Option (List HostAction) := do
  return (← composeFrame image).flatMap hostActionsOf

/-- The precondition of R170. -/
def composeReady (image : SourceImage) (s : State) : Prop :=
  s.configured = true ∧ s.faulted = false ∧ s.sampleCount = 0#32 ∧
    image.length = Config.imageRows ∧ ∀ row ∈ image, row.length = s.ppl.toNat

end Sys2Proof.Machine
end

