-- ==== Sys2Proof/Machine/Assembler.lean ====
section
/-! DEFINITION. The assembler of R85 and R86: a line's text, its operands, and the instructions it encodes. An operand
that does not fit its field is rejected, never masked. It is a tool for the host and no part of the engine (log 13). -/

namespace Sys2Proof.Machine.Asm

open Sys2Proof

/-- One line, its operands as written. -/
inductive Line where
  | nop
  | configure (ppl : Nat)
  | emitBroad (reps : Option Nat)
  | emitShort (reps : Option Nat)
  | emitPulse (width : Nat) (reps : Option Nat)
  | emitBlank
  | emitSynced
  | emitActive (len : Nat) (pixels : List Nat)
  | bufHandoff
  | ttNone
  | ttParity (byte : Nat)
  | ttHamming (nibble : Nat)
  | ttPktaddr (mag pkt : Nat)
  | vsync
  | equalize
  | row (r : Nat)
  | frame
  deriving DecidableEq, Repr

/-- An operand in an n-bit field, or no encoding (R85). -/
def field (n v : Nat) : Option (BitVec n) := if v < 2 ^ n then some (BitVec.ofNat n v) else none

/-- REPS, 5 when not written (R85). -/
def repsOf (reps : Option Nat) : Option (BitVec 6) := field 6 (reps.getD Config.defaultReps)

/-- Every pixel a byte, and as many pixels as LEN says (R85). -/
def activeOf (len : Nat) (pixels : List Nat) : Option Instr := do
  let l ← field 16 len
  let bytes ← pixels.mapM (field 8)
  if pixels.length = len then some (.emitActive l (packBytes bytes)) else none

/-- What a line encodes (R85); pseudo-instructions expand, the rows coming from the host's image (R86). -/
def assemble (image : SourceImage) : Line → Option (List Instr)
  | .nop => some [.nop]
  | .configure ppl => do return [.configure (← field 16 ppl)]
  | .emitBroad reps => do return [.emitBroad (← repsOf reps)]
  | .emitShort reps => do return [.emitShort (← repsOf reps)]
  | .emitPulse width reps => do return [.emitPulse (← repsOf reps) (← field 16 width)]
  | .emitBlank => some [.emitBlank]
  | .emitSynced => some [.emitSynced]
  | .emitActive len pixels => do return [← activeOf len pixels]
  | .bufHandoff => some [.bufHandoff]
  | .ttNone => some [.ttNone]
  | .ttParity byte => do return [.ttParity (← field 8 byte)]
  | .ttHamming nibble => do return [.ttHamming (← field 4 nibble)]
  | .ttPktaddr mag pkt => do return [.ttPktaddr (← field 3 mag) (← field 5 pkt)]
  | .vsync => some [Machine.vsync]
  | .equalize => some [Machine.equalize]
  | .row r => do return [← rowOf image r]
  | .frame => composeFrame image

/-! ## The text of a line: tokens, then operands -/

/-- The marks that are tokens by themselves: comma and the two braces. -/
def isMark (c : Char) : Bool := c == ',' || c.toNat == 123 || c.toNat == 125

def isBlank (c : Char) : Bool := c == ' ' || c == '\t'

/-- The tokens of a line up to its comment, which starts at `;`. `cur` is the token being read. -/
def tokens (cur : List Char) : List Char → List (List Char)
  | [] => if cur = [] then [] else [cur]
  | c :: rest =>
    if c == ';' then (if cur = [] then [] else [cur])
    else if isBlank c then (if cur = [] then tokens [] rest else cur :: tokens [] rest)
    else if isMark c then (if cur = [] then [c] :: tokens [] rest else cur :: [c] :: tokens [] rest)
    else tokens (cur ++ [c]) rest

/-- The value of a digit in a base. -/
def digit (base : Nat) (c : Char) : Option Nat :=
  let n := c.toNat
  let v := if 48 ≤ n ∧ n ≤ 57 then n - 48 else if 65 ≤ n ∧ n ≤ 70 then n - 55 else if 97 ≤ n ∧ n ≤ 102 then n - 87 else base
  if v < base then some v else none

def digits (base acc : Nat) : List Char → Option Nat
  | [] => some acc
  | c :: rest => do digits base (base * acc + (← digit base c)) rest

/-- Decimal, or `0x` and hexadecimal (R85). -/
def number : List Char → Option Nat
  | [] => none
  | ['0', 'x'] => none
  | '0' :: 'x' :: rest => digits 16 0 rest
  | cs => digits 10 0 cs

/-- The pixel list after its opening brace: numbers, commas between them, one closing brace. -/
def pixelList : List (List Char) → Option (List Nat)
  | [] => none
  | [p, close] => if close.map Char.toNat = [125] then do return [← number p] else none
  | p :: comma :: rest => if comma = [','] then do return (← number p) :: (← pixelList rest) else none
  | [_] => none

/-- The tokens of `EMIT_ACTIVE` after its length: a comma and the list in braces, which may be empty. -/
def braced : List (List Char) → Option (List Nat)
  | [','] :: lb :: rest =>
    if lb.map Char.toNat = [123] then
      (if rest.map (·.map Char.toNat) = [[125]] then some [] else pixelList rest)
    else none
  | _ => none

/-- The operands of a mnemonic with an optional repetition count. -/
def optionalReps : List (List Char) → Option (Option Nat)
  | [] => some none
  | [r] => do return some (← number r)
  | _ => none

/-- A line from its tokens: the mnemonic is matched letter for letter. -/
def parseTokens : List (List Char) → Option Line
  | [] => none
  | m :: args =>
    if m = ['N', 'O', 'P'] then (if args = [] then some .nop else none)
    else if m = ['C', 'O', 'N', 'F', 'I', 'G', 'U', 'R', 'E'] then
      match args with
      | [p] => do return .configure (← number p)
      | _ => none
    else if m = ['E', 'M', 'I', 'T', '_', 'B', 'R', 'O', 'A', 'D'] then do return .emitBroad (← optionalReps args)
    else if m = ['E', 'M', 'I', 'T', '_', 'S', 'H', 'O', 'R', 'T'] then do return .emitShort (← optionalReps args)
    else if m = ['E', 'M', 'I', 'T', '_', 'P', 'U', 'L', 'S', 'E'] then
      match args with
      | [w] => do return .emitPulse (← number w) none
      | [w, [','], r] => do return .emitPulse (← number w) (some (← number r))
      | _ => none
    else if m = ['E', 'M', 'I', 'T', '_', 'B', 'L', 'A', 'N', 'K'] then (if args = [] then some .emitBlank else none)
    else if m = ['E', 'M', 'I', 'T', '_', 'S', 'Y', 'N', 'C', 'E', 'D'] then (if args = [] then some .emitSynced else none)
    else if m = ['E', 'M', 'I', 'T', '_', 'A', 'C', 'T', 'I', 'V', 'E'] then
      match args with
      | l :: rest => do return .emitActive (← number l) (← braced rest)
      | [] => none
    else if m = ['B', 'U', 'F', '_', 'H', 'A', 'N', 'D', 'O', 'F', 'F'] then (if args = [] then some .bufHandoff else none)
    else if m = ['T', 'T', '.', 'N', 'O', 'N', 'E'] then (if args = [] then some .ttNone else none)
    else if m = ['T', 'T', '.', 'P', 'A', 'R', 'I', 'T', 'Y'] then
      match args with
      | [b] => do return .ttParity (← number b)
      | _ => none
    else if m = ['T', 'T', '.', 'H', 'A', 'M', 'M', 'I', 'N', 'G'] then
      match args with
      | [n] => do return .ttHamming (← number n)
      | _ => none
    else if m = ['T', 'T', '.', 'P', 'K', 'T', 'A', 'D', 'D', 'R'] then
      match args with
      | [g, [','], p] => do return .ttPktaddr (← number g) (← number p)
      | _ => none
    else if m = ['V', 'S', 'Y', 'N', 'C'] then (if args = [] then some .vsync else none)
    else if m = ['E', 'Q', 'U', 'A', 'L', 'I', 'Z', 'E'] then (if args = [] then some .equalize else none)
    else if m = ['R', 'O', 'W'] then
      match args with
      | [r] => do return .row (← number r)
      | _ => none
    else if m = ['F', 'R', 'A', 'M', 'E'] then (if args = [] then some .frame else none)
    else none

/-- A line of assembler text. -/
def parseLine (text : List Char) : Option Line := parseTokens (tokens [] text)

/-- From text to the instructions. -/
def assembleText (image : SourceImage) (text : List Char) : Option (List Instr) := do assemble image (← parseLine text)

end Sys2Proof.Machine.Asm
end

