-- ==== Sys2Proof/Safety.lean ====
section
/-! DEFINITION. What a good state is (the invariants of R40 and of the rules that name a register's values), and how a
run ends (R281). -/

namespace Sys2Proof.Machine

open Sys2Proof

/-- The profile registers while unconfigured (R40 b). -/
def TimingProfile.zero : TimingProfile :=
  { frontPorch := 0, hsyncPulse := 0, backPorch := 0, scanlineSamples := 0, halfShort := 0, halfBroad := 0,
    sampleFreqHz := 0, pixelFreqHz := 0 }

/-- R40 (b), (c): the profile is all zero, or it is the profile of PPL under NUMERIC_MODE. -/
def State.ProfileInv (s : State) : Prop :=
  if s.configured then 1 ≤ s.ppl.toNat ∧ s.profile = timingProfile s.config.numericMode s.ppl.toNat
  else s.ppl = 0#16 ∧ s.profile = TimingProfile.zero

/-- R40 (a), R35, R37, R132: the count is the buffer's length, within the capacity, and every code is an amplitude of
[0, 1]. -/
def State.BufferInv (s : State) : Prop :=
  s.sampleCount.toNat = s.sampleBuf.length ∧ s.sampleBuf.length ≤ s.config.bufCap.toNat ∧
    ∀ c ∈ s.sampleBuf, c.toNat ≤ 2550

/-- R40 (d), R24, R25: STATUS.FAULT = 0 exactly when FAULT_CODE = 0, and then FAULT_INFO = 0. -/
def State.FaultInv (s : State) : Prop :=
  (s.faulted = false ↔ s.faultCode = .none) ∧ (s.faultCode = .none → s.faultInfo = 0#32)

/-- R38, R244: CMD_ASM is empty, or it is a proper beginning of one command; a halted engine holds none. -/
def State.AssemblyInv (s : State) : Prop :=
  (∀ header payload, s.cmdAsm = header :: payload → s.cmdAsm.length < commandLength header) ∧
    (s.faulted = true → s.cmdAsm = [])

/-- R190, R44: the teletext outputs follow the input at once. -/
def State.TeletextInv (s : State) : Prop := (s.ttOut, s.ttErr) = ttOutputs s.ttIn

/-- All of R40 for the engine's state, and the teletext wires. -/
structure State.Inv (s : State) : Prop where
  profile : s.ProfileInv
  buffer : s.BufferInv
  fault : s.FaultInv
  assembly : s.AssemblyInv
  teletext : s.TeletextInv

/-! ## The end of a run (R281) -/

/-- The action sends a word to the engine: a write to the command port (log 16). -/
def HostAction.isWord : HostAction → Bool
  | .commandWord _ => true
  | .teletextWord _ => false
  | .registerRead _ _ => false
  | .registerWrite _ _ _ => false
  | .assertReset => false

/-- The host has no more words to send (R281 a), whatever else it still does. -/
def State.noMoreWords (s : State) : Bool := s.hostQueue.all fun a => !a.isWord

/-- (a) no more words, (b) CMD_ASM empty, (c) not faulted. -/
def State.endedSuccessfully (s : State) : Bool := s.noMoreWords && s.cmdAsm == [] && !s.faulted

/-- STATUS.FAULT = 1: quiescent and never successful. -/
def State.endedFaulted (s : State) : Bool := s.faulted

/-- CMD_ASM non-empty and no more host words: stuck, not ended; a reset that the host still has lifts it (R276). -/
def State.stuckWaiting (s : State) : Bool := s.noMoreWords && s.cmdAsm != []

end Sys2Proof.Machine
end

