-- ==== Sys2Proof/Certificates/Slice0/Obligations.lean ====
section
/-! DEFINITION. The statements for the provers. Each is written apart from the meanings: header words as numbers (R85),
appended samples by their index, next states as record updates, so that a frame is part of every result. -/

namespace Sys2Proof.Spec

open Sys2Proof Sys2Proof.Machine

/-- R244 written out: what `raise Fault(CODE)` changes, and nothing else. -/
def faultEntry (code : FaultCode) (header : Word) (s : State) : State :=
  { s with
    faultCode := code
    faultInfo := header
    faulted := true
    history := s.history ++ [.fault code header]
    cmdAsm := [] }

/-- The instruction answers the fault entry with this code and this FAULT_INFO. -/
def Faults (i : Instr) (s : State) (code : FaultCode) (header : Word) : Prop :=
  exec i s = .next (faultEntry code header s)

/-- The instruction answers s with n samples more, sample k of them being f k, and nothing else changed. -/
def Appends (i : Instr) (s : State) (n : Nat) (f : Nat → Code) : Prop :=
  exec i s = .next
    { s with
      sampleBuf := s.sampleBuf ++ (List.range n).map f
      sampleCount := s.sampleCount + BitVec.ofNat 32 n }

/-- There is room for n samples more (R131: in unbounded integers). -/
def Fits (s : State) (n : Nat) : Prop := s.sampleCount.toNat + n ≤ s.config.bufCap.toNat

/-- Sample k of a sync block of half-lines of h samples with pw SYNC each (R133). -/
def pulseSample (pw h k : Nat) : Code := if k % h < pw then 0#12 else 765#12

/-- Pixel byte k of a payload (R80). -/
def pixelByte (payload : List Word) (k : Nat) : Nat := (payload[k / 4]?.getD 0#32).toNat / 2 ^ (8 * (k % 4)) % 256

/-- These payload words are these bytes: as many words as they need, byte k in its place, padding bytes 0 (R80, R85). -/
def Packs (bytes : List Nat) (payload : List Word) : Prop :=
  payload.length = (bytes.length + 3) / 4 ∧ ∀ k < 4 * payload.length, pixelByte payload k = bytes[k]?.getD 0

/-- Steps 1 to 7 of R171 over the commands of the rows. -/
def frameOf (row : Nat → Instr) : List Instr :=
  List.flatten
    [[.emitBroad 5#6, .emitShort 5#6], (List.range 305).map (fun i => row (2 * i)), [.emitShort 5#6],
      [.emitBroad 5#6, .emitShort 5#6, .emitBlank], (List.range 304).map (fun i => row (2 * i + 1)),
      [.emitSynced, .emitShort 5#6], [.bufHandoff]]

/-- Sample k of an active scanline (R139). -/
def activeSample (s : State) (payload : List Word) (k : Nat) : Code :=
  if k < s.hsyncPulse.toNat then 0#12
  else if k < s.hsyncPulse.toNat + s.backPorch.toNat then 765#12
  else if k < s.hsyncPulse.toNat + s.backPorch.toNat + s.ppl.toNat then
    BitVec.ofNat 12 (765 + 7 * pixelByte payload (k - s.hsyncPulse.toNat - s.backPorch.toNat))
  else 765#12

/-- The host's next action is to write w; its later ones are rest. -/
def NextWord (s : State) (w : Word) (rest : List HostAction) : Prop := s.hostQueue = .commandWord w :: rest

/-- The codebook of R194. -/
def codebook : List Nat :=
  [0x15, 0x02, 0x89, 0x9E, 0xA4, 0xB3, 0x38, 0x2F, 0xD0, 0xC7, 0x4C, 0x5B, 0x61, 0x76, 0xFD, 0xEA]

/-- The number of 1 bits of a byte. -/
def weight (b : Nat) : Nat := ((List.range 8).filter (fun k => b.testBit k)).length

/-- The number of bits in which two bytes differ. -/
def distance (a b : Nat) : Nat := weight (a ^^^ b)

/-- An EMIT command (R76). -/
def IsEmit (i : Instr) : Prop :=
  (∃ reps, i = .emitBroad reps) ∨ (∃ reps, i = .emitShort reps) ∨ (∃ reps pw, i = .emitPulse reps pw) ∨
    i = .emitBlank ∨ i = .emitSynced ∨ ∃ len payload, i = .emitActive len payload

/-- PPL and the eight profile registers are the same in two states (R115). -/
def SameProfile (s t : State) : Prop := t.ppl = s.ppl ∧ t.profile = s.profile

/-- The engine's registers and lists are the same in two states: all of R20. -/
def SameEngine (s t : State) : Prop :=
  t.configured = s.configured ∧ t.faulted = s.faulted ∧ t.faultCode = s.faultCode ∧ t.faultInfo = s.faultInfo ∧
    SameProfile s t ∧ t.sampleCount = s.sampleCount ∧ t.sampleBuf = s.sampleBuf ∧ t.cmdAsm = s.cmdAsm

/-- The eleven values of R113. -/
def binary64Exceptions : List Nat := [1039, 2078, 4156, 8312, 16624, 17663, 33248, 34287, 35326, 36365, 65457]

end Sys2Proof.Spec

open Sys2Proof Sys2Proof.Machine Sys2Proof.Spec

/-! ## Encoding -/

/-- Decoding the encoding of a well-formed instruction gives it back, with every operand (30_encoding.md). -/
def Obligations.DecodeEncodeRoundTrip : Prop :=
  ∀ i : Instr, i.WellFormed → decode (encode i) = .ok i

/-- The other direction: words that decode are the encoding of what they decode to, and that is well formed, so no two
commands are the same instruction. -/
def Obligations.EncodeDecodeGivesTheWords : Prop :=
  ∀ (e : Encoded) (i : Instr), decode e = .ok i → encode i = e ∧ i.WellFormed

/-- R77, R81: a header selects the mnemonic whose masked bits it matches; at most one row matches; and each free field
is read unsigned from its own bits. -/
def Obligations.HeaderSelectsByMaskAndMatch : Prop :=
  (∀ (h : Word) (payload : List Word), ∀ r ∈ rowsV,
      h &&& r.mask = r.val ↔ ∃ i, decodeCommand h payload = .ok i ∧ i.mnemonic = r.mnemonic) ∧
    (∀ h : Word, ∀ r ∈ rowsV, ∀ r' ∈ rowsV, h &&& r.mask = r.val → h &&& r'.mask = r'.val → r = r') ∧
    ∀ (h : Word) (payload : List Word) (i : Instr), decodeCommand h payload = .ok i →
      match i with
      | .configure ppl => ppl.toNat = h.toNat % 2 ^ 16
      | .emitBroad reps => reps.toNat = h.toNat / 2 ^ 16 % 2 ^ 6
      | .emitShort reps => reps.toNat = h.toNat / 2 ^ 16 % 2 ^ 6
      | .emitPulse reps pw => reps.toNat = h.toNat / 2 ^ 16 % 2 ^ 6 ∧ pw.toNat = h.toNat % 2 ^ 16
      | .emitActive len p => len.toNat = h.toNat % 2 ^ 16 ∧ p = payload
      | _ => True

/-- R78: a header of no row raises ILLEGAL_COMMAND at once, with itself as FAULT_INFO, and takes no payload; the cases
(a) to (d) are such headers, and the all-zero word is NOP. -/
def Obligations.IllegalHeaderFaultsAtOnce : Prop :=
  (∀ (s : State) (w : Word) (rest : List HostAction),
      NextWord s w rest → s.faulted = false → s.cmdAsm = [] → (∀ r ∈ rowsV, ¬ w &&& r.mask = r.val) →
        step s = .next (faultEntry .illegalCommand w { s with hostQueue := rest })) ∧
    (∀ w : Word, (∀ r ∈ rowsV, ¬ w &&& r.mask = r.val) ↔
      (w.toNat / 2 ^ 24 ∉ [0x00, 0x01, 0x10, 0x11, 0x12, 0x13, 0x30] ∨
        (w.toNat / 2 ^ 24 ∈ [0x00, 0x11, 0x12, 0x30] ∧ w.toNat % 2 ^ 24 ≠ 0) ∨
        (w.toNat / 2 ^ 24 ∈ [0x01, 0x13] ∧ w.toNat / 2 ^ 16 % 2 ^ 8 ≠ 0) ∨
        (w.toNat / 2 ^ 24 = 0x10 ∧ w.toNat / 2 ^ 22 % 4 = 3) ∨
        (w.toNat / 2 ^ 24 = 0x10 ∧ w.toNat / 2 ^ 22 % 4 ≤ 1 ∧ w.toNat % 2 ^ 16 ≠ 0))) ∧
    ∀ payload, decodeCommand 0x00000000#32 payload = .ok .nop

/-- R79: the length a header fixes, when a command is complete, and that the words before its last one are only kept. -/
def Obligations.CommandLengthIsFixedByHeader : Prop :=
  (∀ (h : Word) (payload : List Word) (len : BitVec 16) (p : List Word),
      decodeCommand h payload = .ok (.emitActive len p) → commandLength h = 1 + (len.toNat + 3) / 4) ∧
    (∀ (h : Word) (payload : List Word),
      (∀ len p, decodeCommand h payload ≠ .ok (.emitActive len p)) → commandLength h = 1) ∧
    commandLength 0x13000000#32 = 1 ∧ commandLength 0x1300FFFF#32 = 1 + 16384 ∧
    (∀ (h : Word) (rest : List Word), complete (h :: rest) = true ↔ (h :: rest).length = commandLength h) ∧
    ∀ (s : State) (w h : Word) (words : List Word) (rest : List HostAction),
      NextWord s w rest → s.faulted = false → s.cmdAsm ++ [w] = h :: words → (h :: words).length ≠ commandLength h →
        step s = .next { s with hostQueue := rest, cmdAsm := s.cmdAsm ++ [w] }

/-- Words written out from 30_encoding.md's fields decode to the instructions they stand for (sanity). -/
def Obligations.WrittenOutWordsDecode : Prop :=
  ∀ payload : List Word,
    decodeCommand 0b00000001000000000000000011010000#32 payload = .ok (.configure 208#16) ∧
    decodeCommand 0b00010000000001010000000000000000#32 payload = .ok (.emitBroad 5#6) ∧
    decodeCommand 0b00010000010001010000000000000000#32 payload = .ok (.emitShort 5#6) ∧
    decodeCommand 0b00010000101111110000000000011001#32 payload = .ok (.emitPulse 63#6 25#16) ∧
    decodeCommand 0b00010011000000000000000000100111#32 payload = .ok (.emitActive 39#16 payload) ∧
    decodeCommand 0b00110000000000000000000000000000#32 payload = .ok .bufHandoff ∧
    decodeT 0b0011000010111001#16 = .ok (.ttPktaddr 1#3 23#5)

/-- R83, R84: a port word selects the operation whose masked bits it matches; a word of no row is answered with
tt_err = 1 and 0x0000; and which words those are. -/
def Obligations.TeletextWordSelectsByMaskAndMatch : Prop :=
  (∀ t : TtWord, ∀ r ∈ rowsT, t &&& r.mask = r.val ↔ ∃ i, decodeT t = .ok i ∧ i.mnemonic = r.mnemonic) ∧
    (∀ t byte, decodeT t = .ok (.ttParity byte) → byte.toNat = t.toNat % 256) ∧
    (∀ t nibble, decodeT t = .ok (.ttHamming nibble) → nibble.toNat = t.toNat % 16) ∧
    (∀ t mag pkt, decodeT t = .ok (.ttPktaddr mag pkt) → mag.toNat = t.toNat % 8 ∧ pkt.toNat = t.toNat % 256 / 8) ∧
    (∀ t : TtWord, (∀ r ∈ rowsT, ¬ t &&& r.mask = r.val) ↔
      (4 ≤ t.toNat / 2 ^ 12 ∨ t.toNat / 2 ^ 8 % 16 ≠ 0 ∨ (t.toNat / 2 ^ 12 = 2 ∧ t.toNat / 16 % 16 ≠ 0) ∨
        (t.toNat / 2 ^ 12 = 0 ∧ t.toNat % 256 ≠ 0))) ∧
    ∀ (s : State) (t : TtWord) (rest : List HostAction),
      s.hostQueue = .teletextWord t :: rest → (∀ r ∈ rowsT, ¬ t &&& r.mask = r.val) →
        step s = .next { s with hostQueue := rest, ttIn := t, ttOut := 0x0000#16, ttErr := true }

/-- R85, R86, R198, R171: an operand that fits its field is encoded as the table of R85 has it, pixels packed as R80 has
them with padding bytes 0; one that does not fit is rejected and never masked, a row's length too; the
pseudo-instructions are what they stand for. That ROW and FRAME have no encoding over a row that the host does not have
is the model's choice (log 13). -/
def Obligations.AssemblerRejectsWhatDoesNotFit : Prop :=
  ∀ image : SourceImage,
    (∀ v, (Asm.assemble image (.configure v)).map (·.map encode) =
      if v < 2 ^ 16 then some [.command [BitVec.ofNat 32 (0x01000000 + v)]] else none) ∧
    (∀ r, (Asm.assemble image (.emitBroad (some r))).map (·.map encode) =
      if r < 2 ^ 6 then some [.command [BitVec.ofNat 32 (0x10000000 + r * 2 ^ 16)]] else none) ∧
    (∀ r, (Asm.assemble image (.emitShort (some r))).map (·.map encode) =
      if r < 2 ^ 6 then some [.command [BitVec.ofNat 32 (0x10400000 + r * 2 ^ 16)]] else none) ∧
    (∀ w r, (Asm.assemble image (.emitPulse w (some r))).map (·.map encode) =
      if w < 2 ^ 16 ∧ r < 2 ^ 6 then some [.command [BitVec.ofNat 32 (0x10800000 + r * 2 ^ 16 + w)]] else none) ∧
    (∀ (len : Nat) (pixels : List Nat), len < 2 ^ 16 → pixels.length = len → (∀ p ∈ pixels, p < 256) →
      ∃ payload, Asm.assemble image (.emitActive len pixels) = some [.emitActive (BitVec.ofNat 16 len) payload] ∧
        encode (.emitActive (BitVec.ofNat 16 len) payload) =
          .command (BitVec.ofNat 32 (0x13000000 + len) :: payload) ∧ Packs pixels payload) ∧
    (∀ (len : Nat) (pixels : List Nat), 2 ^ 16 ≤ len ∨ pixels.length ≠ len ∨ (∃ p ∈ pixels, 256 ≤ p) →
      Asm.assemble image (.emitActive len pixels) = none) ∧
    (∀ b, (Asm.assemble image (.ttParity b)).map (·.map encode) =
      if b < 2 ^ 8 then some [.teletext (BitVec.ofNat 16 (0x1000 + b))] else none) ∧
    (∀ x, (Asm.assemble image (.ttHamming x)).map (·.map encode) =
      if x < 2 ^ 4 then some [.teletext (BitVec.ofNat 16 (0x2000 + x))] else none) ∧
    (∀ m p, (Asm.assemble image (.ttPktaddr m p)).map (·.map encode) =
      if m < 2 ^ 3 ∧ p < 2 ^ 5 then some [.teletext (BitVec.ofNat 16 (0x3000 + p * 8 + m))] else none) ∧
    Asm.assemble image .vsync = some [.emitBroad 5#6] ∧ Asm.assemble image .equalize = some [.emitShort 5#6] ∧
    (∀ (r : Nat) (row : List Byte), image[r]? = some row → row.length < 2 ^ 16 →
      ∃ payload, Asm.assemble image (.row r) = some [.emitActive (BitVec.ofNat 16 row.length) payload] ∧
        encode (.emitActive (BitVec.ofNat 16 row.length) payload) =
          .command (BitVec.ofNat 32 (0x13000000 + row.length) :: payload) ∧ Packs (row.map BitVec.toNat) payload) ∧
    (∀ (r : Nat) (row : List Byte), image[r]? = some row → 2 ^ 16 ≤ row.length → Asm.assemble image (.row r) = none) ∧
    (∀ r : Nat, image[r]? = none → Asm.assemble image (.row r) = none) ∧
    (∀ row : Nat → Instr, (∀ r ≤ 608, Asm.assemble image (.row r) = some [row r]) →
      Asm.assemble image .frame = some (frameOf row)) ∧
    ∀ r ≤ 608, Asm.assemble image (.row r) = none → Asm.assemble image .frame = none

/-! ## The step -/

/-- A step runs the decoded instruction: when the word that completes a command arrives and the command decodes to i,
the step is exec of i with the words in CMD_ASM, and CMD_ASM emptied after it (R55). -/
def Obligations.StepRunsTheDecodedCommand : Prop :=
  ∀ (s : State) (w : Word) (rest : List HostAction) (i : Instr),
    NextWord s w rest → s.faulted = false → decode (.command (s.cmdAsm ++ [w])) = .ok i →
      step s = afterCommand (exec i { s with hostQueue := rest, cmdAsm := s.cmdAsm ++ [w] })

/-- A teletext word on its port runs the operation it decodes to, whatever the engine is doing. -/
def Obligations.StepRunsTheTeletextWord : Prop :=
  ∀ (s : State) (t : TtWord) (rest : List HostAction) (i : Instr),
    s.hostQueue = .teletextWord t :: rest → decodeT t = .ok i → step s = exec i { s with hostQueue := rest }

/-- The host's table word: the next step after withFetchWord runs the instruction decodeTableWord names (log 2: how the
model brings a word to its port). -/
def Obligations.FetchedTableWordRuns : Prop :=
  (∀ (s : State) (w : Nat) (i : Instr), s.faulted = false → decodeTableWord 32 w = some i →
      step (s.withFetchWord 32 w) = afterCommand (exec i { s with cmdAsm := commandWithZeroPayload (BitVec.ofNat 32 w) })) ∧
    ∀ (s : State) (w : Nat) (i : Instr), decodeTableWord 16 w = some i → step (s.withFetchWord 16 w) = exec i s

/-- With no host action pending nothing changes (the model's choice, log 1; R271, R276: the engine waits). -/
def Obligations.IdleStepChangesNothing : Prop :=
  ∀ s : State, s.hostQueue = [] → step s = .next s

/-- R56: a command whose words are only partly received has had no effect: every register reads as before it. -/
def Obligations.PartialCommandIsInvisible : Prop :=
  ∀ (s t : State) (w : Word) (rest : List HostAction),
    NextWord s w rest → step s = .next t → t.cmdAsm ≠ [] →
      t = { s with hostQueue := rest, cmdAsm := s.cmdAsm ++ [w] } ∧ ∀ offset, t.registerAt offset = s.registerAt offset

/-! ## The timing model -/

/-- R102-R109, R118: every count is the floor of its exact rational, in the integer form of its rule. -/
def Obligations.ExactProfileIsTruncatedRational : Prop :=
  ∀ n : Nat,
    let pf : ℚ := n / (5195 / 10 ^ 8)
    let p := timingProfile .exact n
    pf = 20000000 * n / 1039 ∧
    (p.frontPorch = ⌊(165 / 10 ^ 8 : ℚ) * pf⌋₊ ∧ p.frontPorch = 33 * n / 1039) ∧
    (p.hsyncPulse = ⌊(47 / 10 ^ 7 : ℚ) * pf⌋₊ ∧ p.hsyncPulse = 94 * n / 1039) ∧
    (p.backPorch = ⌊(57 / 10 ^ 7 : ℚ) * pf⌋₊ ∧ p.backPorch = 114 * n / 1039) ∧
    p.scanlineSamples = p.frontPorch + p.hsyncPulse + n + p.backPorch ∧
    ((p.sampleFreqHz : ℚ) = p.scanlineSamples / (64 / 10 ^ 6) ∧ p.sampleFreqHz = 15625 * p.scanlineSamples) ∧
    (p.halfShort = ⌊(235 / 10 ^ 8 : ℚ) * pf⌋₊ ∧ p.halfShort = 47 * n / 1039) ∧
    (p.halfBroad = ⌊((32 / 10 ^ 6 - 47 / 10 ^ 7 : ℚ)) * pf⌋₊ ∧ p.halfBroad = 546 * n / 1039) ∧
    (p.pixelFreqHz = ⌊pf⌋₊ ∧ p.pixelFreqHz = 20000000 * n / 1039)

/-- R100: CONFIGURE's encoding, its two faults in order, and the ten registers it writes; the corner n = 1 and the
example n = 208 in both modes. -/
def Obligations.ConfigureLatchesTheProfile : Prop :=
  (∀ (w : Word) (payload : List Word), w &&& 0xFFFF0000#32 = 0x01000000#32 →
      decodeCommand w payload = .ok (.configure (BitVec.ofNat 16 w.toNat))) ∧
    (∀ (w : Word) (payload : List Word), w.toNat / 2 ^ 24 = 1 → w.toNat / 2 ^ 16 % 2 ^ 8 ≠ 0 →
      decodeCommand w payload = .error .illegalCommand) ∧
    (∀ (n : BitVec 16) (s : State), s.configured = true →
      Faults (.configure n) s .reconfigure (BitVec.ofNat 32 (0x01000000 + n.toNat))) ∧
    (∀ s : State, s.configured = false → Faults (.configure 0#16) s .configError 0x01000000#32) ∧
    (∀ (n : BitVec 16) (s : State), s.configured = false → n ≠ 0#16 →
      let p := timingProfile s.config.numericMode n.toNat
      ∃ t, exec (.configure n) s = .next t ∧
        t = { s with
          configured := true
          ppl := n
          frontPorch := BitVec.ofNat 32 p.frontPorch
          hsyncPulse := BitVec.ofNat 32 p.hsyncPulse
          backPorch := BitVec.ofNat 32 p.backPorch
          scanlineSamples := BitVec.ofNat 32 p.scanlineSamples
          halfShort := BitVec.ofNat 32 p.halfShort
          halfBroad := BitVec.ofNat 32 p.halfBroad
          sampleFreqHz := BitVec.ofNat 32 p.sampleFreqHz
          pixelFreqHz := BitVec.ofNat 32 p.pixelFreqHz } ∧
        t.profile = p) ∧
    ∀ mode, timingProfile mode 1 = ⟨0, 0, 0, 1, 0, 0, 15625, 19249⟩ ∧
      timingProfile mode 208 = ⟨6, 18, 22, 254, 9, 109, 3968750, 4003849⟩

/-- R113: the two modes agree on every register for every n but eleven, where the binary64 product falls below the exact
integer 114n/1039 and BINARY64's back porch and scanline are one less; both frequencies truncate as stated in both
modes; and the rule's table. -/
def Obligations.NumericModesDifferAtElevenValues : Prop :=
  binary64Exceptions.map (fun n => ((timingProfile .exact n).backPorch, (timingProfile .exact n).scanlineSamples,
      (timingProfile .binary64 n).backPorch, (timingProfile .binary64 n).scanlineSamples)) =
    [(114, 1280, 113, 1279), (228, 2560, 227, 2559), (456, 5120, 455, 5119), (912, 10240, 911, 10239),
      (1824, 20480, 1823, 20479), (1938, 21760, 1937, 21759), (3648, 40960, 3647, 40959), (3762, 42240, 3761, 42239),
      (3876, 43520, 3875, 43519), (3990, 44800, 3989, 44799), (7182, 80640, 7181, 80639)] ∧
  ∀ n : Nat, 1 ≤ n → n ≤ 65535 →
    (n ∉ binary64Exceptions → timingProfile .binary64 n = timingProfile .exact n) ∧
    (n ∈ binary64Exceptions →
      1039 ∣ 114 * n ∧
      timingProfile .binary64 n =
        { timingProfile .exact n with
          backPorch := (timingProfile .exact n).backPorch - 1
          scanlineSamples := (timingProfile .exact n).scanlineSamples - 1
          sampleFreqHz := (timingProfile .exact n).sampleFreqHz - 15625 } ∧
      1 ≤ (timingProfile .exact n).backPorch ∧ 1 ≤ (timingProfile .exact n).scanlineSamples ∧
      (b64BackPorch.mul (pixelFreq64 n)).toRat < (114 * n : ℚ) / 1039) ∧
    ∀ mode, (timingProfile mode n).sampleFreqHz = 15625 * (timingProfile mode n).scanlineSamples ∧
      (timingProfile mode n).pixelFreqHz = 20000000 * n / 1039

/-- R114: the bounds of every profile value, in both modes; no intermediate product passes 32 bits; the exact forms do
not decrease. -/
def Obligations.ProfileValuesAreBounded : Prop :=
  (∀ (mode : NumericMode) (n : Nat), 1 ≤ n → n ≤ 65535 →
      let p := timingProfile mode n
      p.frontPorch ≤ 2081 ∧ p.hsyncPulse ≤ 5929 ∧ p.backPorch ≤ 7190 ∧
      1 ≤ p.scanlineSamples ∧ p.scanlineSamples ≤ 80735 ∧ p.halfShort ≤ 2964 ∧ p.halfBroad ≤ 34438 ∧
      p.scanlineSamples / 2 ≤ 40367 ∧ 15625 ≤ p.sampleFreqHz ∧ p.sampleFreqHz ≤ 1261484375 ∧
      19249 ≤ p.pixelFreqHz ∧ p.pixelFreqHz ≤ 1261501443) ∧
    (∀ k ∈ [33, 94, 114, 47, 546], k * 65535 ≤ 35782110) ∧ 35782110 < 2 ^ 32 ∧
    ∀ m n : Nat, m ≤ n →
      let p := timingProfile .exact m
      let q := timingProfile .exact n
      p.frontPorch ≤ q.frontPorch ∧ p.hsyncPulse ≤ q.hsyncPulse ∧ p.backPorch ≤ q.backPorch ∧
      p.scanlineSamples ≤ q.scanlineSamples ∧ p.halfShort ≤ q.halfShort ∧ p.halfBroad ≤ q.halfBroad ∧
      p.sampleFreqHz ≤ q.sampleFreqHz ∧ p.pixelFreqHz ≤ q.pixelFreqHz

/-- R117: in both modes no segment count is negative, so no command but EMIT_PULSE with a width above H raises
SEGMENT_UNDERFLOW; and at n = 1 every difference is 0. -/
def Obligations.SegmentCountsAreNonNegative : Prop :=
  (∀ (mode : NumericMode) (n : Nat), 1 ≤ n → n ≤ 65535 →
      let p := timingProfile mode n
      p.halfBroad ≤ p.scanlineSamples / 2 ∧ p.halfShort ≤ p.scanlineSamples / 2 ∧
      p.hsyncPulse + p.backPorch ≤ p.scanlineSamples / 2) ∧
    (∀ (i : Instr) (s t : State), exec i s = .next t → (∀ reps pw, i ≠ .emitPulse reps pw) →
      s.faultCode ≠ .segmentUnderflow → t.faultCode ≠ .segmentUnderflow) ∧
    (∀ (reps : BitVec 6) (pw : BitVec 16) (s t : State), exec (.emitPulse reps pw) s = .next t →
      s.faultCode ≠ .segmentUnderflow → t.faultCode = .segmentUnderflow → s.scanlineSamples.toNat / 2 < pw.toNat) ∧
    ∀ mode, let p := timingProfile mode 1
      p.scanlineSamples / 2 = 0 ∧ p.halfBroad = 0 ∧ p.halfShort = 0 ∧ p.hsyncPulse = 0 ∧ p.backPorch = 0

/-- R36: pixelFrequency is defined while configured, the exact rational in EXACT mode and the binary64 value otherwise, and
PIXEL_FREQ_HZ holds its integer part. -/
def Obligations.PixelFrequencyIsHeldTruncated : Prop :=
  (∀ s : State, s.configured = false → s.pixelFrequency = none) ∧
    ∀ s : State, s.ProfileInv → s.configured = true →
      ∃ q : ℚ, s.pixelFrequency = some q ∧ s.pixelFreqHz.toNat = ⌊q⌋₊ ∧
        (s.config.numericMode = .exact → q = s.ppl.toNat / (5195 / 10 ^ 8) ∧ q = 20000000 * s.ppl.toNat / 1039) ∧
        (s.config.numericMode = .binary64 → q = (pixelFreq64 s.ppl.toNat).toRat)

/-- R115: once configured, PPL and the profile registers keep their values over every step that is not a reset, and a
second CONFIGURE faults. -/
def Obligations.ProfileIsImmutable : Prop :=
  (∀ s t : State, s.configured = true → s.hostQueue.head? ≠ some .assertReset → step s = .next t →
      SameProfile s t ∧ t.configured = true) ∧
    ∀ (s : State) (n : BitVec 16), s.configured = true → ∃ t, exec (.configure n) s = .next t ∧
      t.faultCode = .reconfigure ∧ SameProfile s t

/-! ## The waveform builder -/

/-- R134 -/
def Obligations.EmitBroadAppendsBroadPulses : Prop :=
  (∀ image, Asm.assemble image (.emitBroad none) = some [.emitBroad 5#6]) ∧
  (∀ (w : Word) (payload : List Word), w &&& 0xFFC0FFFF#32 = 0x10000000#32 →
      decodeCommand w payload = .ok (.emitBroad (BitVec.ofNat 6 (w.toNat / 2 ^ 16)))) ∧
    (∀ (w : Word) (payload : List Word), w.toNat / 2 ^ 22 = 0x40 → w.toNat % 2 ^ 16 ≠ 0 →
      decodeCommand w payload = .error .illegalCommand) ∧
    (∀ (reps : BitVec 6) (s : State),
      let header := BitVec.ofNat 32 (0x10000000 + reps.toNat * 2 ^ 16)
      let g := reps.toNat * (s.scanlineSamples.toNat / 2)
      (s.configured = false → Faults (.emitBroad reps) s .notConfigured header) ∧
      (s.configured = true → ¬ Fits s g → Faults (.emitBroad reps) s .bufferOverflow header) ∧
      (s.ProfileInv → s.configured = true → Fits s g →
        Appends (.emitBroad reps) s g (pulseSample s.halfBroad.toNat (s.scanlineSamples.toNat / 2)))) ∧
    (∀ s : State, s.configured = true → Fits s 0 → exec (.emitBroad 0#6) s = .next s) ∧
    (∀ (reps : BitVec 6) (s : State), s.ProfileInv → s.configured = true → s.ppl = 1#16 → Fits s 0 →
      exec (.emitBroad reps) s = .next s) ∧
    (∀ (reps : BitVec 6) (s : State), s.ProfileInv → s.configured = true → s.ppl = 2#16 → Fits s reps.toNat →
      Appends (.emitBroad reps) s reps.toNat (fun _ => 0#12)) ∧
    ∀ s : State, s.ProfileInv → s.configured = true → s.ppl = 208#16 → Fits s 635 →
      Appends (.emitBroad 5#6) s 635 (fun k => if k % 127 < 109 then 0#12 else 765#12)

/-- R135 -/
def Obligations.EmitShortAppendsShortPulses : Prop :=
  (∀ image, Asm.assemble image (.emitShort none) = some [.emitShort 5#6]) ∧
  (∀ (w : Word) (payload : List Word), w &&& 0xFFC0FFFF#32 = 0x10400000#32 →
      decodeCommand w payload = .ok (.emitShort (BitVec.ofNat 6 (w.toNat / 2 ^ 16)))) ∧
    (∀ (w : Word) (payload : List Word), w.toNat / 2 ^ 22 = 0x41 → w.toNat % 2 ^ 16 ≠ 0 →
      decodeCommand w payload = .error .illegalCommand) ∧
    (∀ (reps : BitVec 6) (s : State),
      let header := BitVec.ofNat 32 (0x10400000 + reps.toNat * 2 ^ 16)
      let g := reps.toNat * (s.scanlineSamples.toNat / 2)
      (s.configured = false → Faults (.emitShort reps) s .notConfigured header) ∧
      (s.configured = true → ¬ Fits s g → Faults (.emitShort reps) s .bufferOverflow header) ∧
      (s.ProfileInv → s.configured = true → Fits s g →
        Appends (.emitShort reps) s g (pulseSample s.halfShort.toNat (s.scanlineSamples.toNat / 2)))) ∧
    (∀ s : State, s.configured = true → Fits s 0 → exec (.emitShort 0#6) s = .next s) ∧
    (∀ (reps : BitVec 6) (s : State), s.ProfileInv → s.configured = true → s.ppl.toNat < 23 →
      Fits s (reps.toNat * (s.scanlineSamples.toNat / 2)) →
      Appends (.emitShort reps) s (reps.toNat * (s.scanlineSamples.toNat / 2)) (fun _ => 765#12)) ∧
    ∀ s : State, s.ProfileInv → s.configured = true → s.ppl = 208#16 → Fits s 635 →
      Appends (.emitShort 5#6) s 635 (fun k => if k % 127 < 9 then 0#12 else 765#12)

/-- R136 -/
def Obligations.EmitPulseAppendsItsWidth : Prop :=
  (∀ (image : SourceImage) (width : BitVec 16),
      Asm.assemble image (.emitPulse width.toNat none) = some [.emitPulse 5#6 width]) ∧
  (∀ (w : Word) (payload : List Word), w &&& 0xFFC00000#32 = 0x10800000#32 →
      decodeCommand w payload = .ok (.emitPulse (BitVec.ofNat 6 (w.toNat / 2 ^ 16)) (BitVec.ofNat 16 w.toNat))) ∧
    (∀ (w : Word) (payload : List Word), w.toNat / 2 ^ 22 = 0x43 → decodeCommand w payload = .error .illegalCommand) ∧
    (∀ (reps : BitVec 6) (pw : BitVec 16) (s : State),
      let header := BitVec.ofNat 32 (0x10800000 + reps.toNat * 2 ^ 16 + pw.toNat)
      let h := s.scanlineSamples.toNat / 2
      (s.configured = false → Faults (.emitPulse reps pw) s .notConfigured header) ∧
      (s.configured = true → h < pw.toNat → Faults (.emitPulse reps pw) s .segmentUnderflow header) ∧
      (s.configured = true → pw.toNat ≤ h → ¬ Fits s (reps.toNat * h) →
        Faults (.emitPulse reps pw) s .bufferOverflow header) ∧
      (s.configured = true → pw.toNat ≤ h → Fits s (reps.toNat * h) →
        Appends (.emitPulse reps pw) s (reps.toNat * h) (pulseSample pw.toNat h))) ∧
    (∀ (reps : BitVec 6) (s : State), s.configured = true → Fits s (reps.toNat * (s.scanlineSamples.toNat / 2)) →
      Appends (.emitPulse reps 0#16) s (reps.toNat * (s.scanlineSamples.toNat / 2)) (fun _ => 765#12)) ∧
    (∀ (reps : BitVec 6) (pw : BitVec 16) (s : State), s.configured = true → pw.toNat = s.scanlineSamples.toNat / 2 →
      Fits s (reps.toNat * pw.toNat) → Appends (.emitPulse reps pw) s (reps.toNat * pw.toNat) (fun _ => 0#12)) ∧
    ∀ s : State, s.ProfileInv → s.configured = true → s.ppl = 208#16 →
      (Fits s 127 → Appends (.emitPulse 1#6 18#16) s 127 (fun k => if k < 18 then 0#12 else 765#12)) ∧
      Faults (.emitPulse 1#6 128#16) s .segmentUnderflow 0x10810080#32

/-- R137 -/
def Obligations.EmitBlankAppendsHalfLine : Prop :=
  (∀ (w : Word) (payload : List Word), decodeCommand w payload = .ok .emitBlank ↔ w = 0x11000000#32) ∧
    (∀ (w : Word) (payload : List Word), w.toNat / 2 ^ 24 = 0x11 → w.toNat % 2 ^ 24 ≠ 0 →
      decodeCommand w payload = .error .illegalCommand) ∧
    (∀ s : State,
      let h := s.scanlineSamples.toNat / 2
      (s.configured = false → Faults .emitBlank s .notConfigured 0x11000000#32) ∧
      (s.configured = true → ¬ Fits s h → Faults .emitBlank s .bufferOverflow 0x11000000#32) ∧
      (s.configured = true → Fits s h → Appends .emitBlank s h (fun _ => 765#12))) ∧
    (∀ s : State, s.ProfileInv → s.configured = true → s.ppl = 1#16 → Fits s 0 → exec .emitBlank s = .next s) ∧
    (∀ (s : State) (k : Nat), s.configured = true → s.scanlineSamples.toNat = 2 * k + 1 → Fits s k →
      Appends .emitBlank s k (fun _ => 765#12)) ∧
    ∀ s : State, s.ProfileInv → s.configured = true → s.ppl = 208#16 → Fits s 127 →
      Appends .emitBlank s 127 (fun _ => 765#12)

/-- R138 -/
def Obligations.EmitSyncedAppendsSyncedHalfLine : Prop :=
  (∀ (w : Word) (payload : List Word), decodeCommand w payload = .ok .emitSynced ↔ w = 0x12000000#32) ∧
    (∀ (w : Word) (payload : List Word), w.toNat / 2 ^ 24 = 0x12 → w.toNat % 2 ^ 24 ≠ 0 →
      decodeCommand w payload = .error .illegalCommand) ∧
    (∀ s : State,
      let h := s.scanlineSamples.toNat / 2
      (s.configured = false → Faults .emitSynced s .notConfigured 0x12000000#32) ∧
      (s.configured = true → ¬ Fits s h → Faults .emitSynced s .bufferOverflow 0x12000000#32) ∧
      (s.ProfileInv → s.configured = true → Fits s h →
        Appends .emitSynced s h (fun k => if k < s.hsyncPulse.toNat then 0#12 else 765#12))) ∧
    (∀ s : State, s.ProfileInv → s.configured = true → s.ppl.toNat < 12 → Fits s (s.scanlineSamples.toNat / 2) →
      Appends .emitSynced s (s.scanlineSamples.toNat / 2) (fun _ => 765#12)) ∧
    ∀ s : State, s.ProfileInv → s.configured = true → s.ppl = 208#16 → Fits s 127 →
      Appends .emitSynced s 127 (fun k => if k < 18 then 0#12 else 765#12)

/-- R139 -/
def Obligations.EmitActiveAppendsScanline : Prop :=
  (∀ (w : Word) (payload : List Word), w &&& 0xFFFF0000#32 = 0x13000000#32 →
      decodeCommand w payload = .ok (.emitActive (BitVec.ofNat 16 w.toNat) payload) ∧
      commandLength w = 1 + (w.toNat % 2 ^ 16 + 3) / 4) ∧
    (∀ (w : Word) (payload : List Word), w.toNat / 2 ^ 24 = 0x13 → w.toNat / 2 ^ 16 % 2 ^ 8 ≠ 0 →
      decodeCommand w payload = .error .illegalCommand ∧ commandLength w = 1) ∧
    (∀ (len : BitVec 16) (payload : List Word) (s : State),
      let header := BitVec.ofNat 32 (0x13000000 + len.toNat)
      (s.configured = false → Faults (.emitActive len payload) s .notConfigured header) ∧
      (s.configured = true → len ≠ s.ppl → Faults (.emitActive len payload) s .malformedRow header) ∧
      (s.configured = true → len = s.ppl → ¬ Fits s s.scanlineSamples.toNat →
        Faults (.emitActive len payload) s .bufferOverflow header) ∧
      (s.ProfileInv → s.configured = true → len = s.ppl → payload.length = (len.toNat + 3) / 4 →
        Fits s s.scanlineSamples.toNat →
        Appends (.emitActive len payload) s s.scanlineSamples.toNat (activeSample s payload))) ∧
    (∀ (len : BitVec 16) (payload : List Word) (s : State) (w : Word) (rest : List HostAction),
      NextWord s w rest → s.faulted = false → s.cmdAsm = BitVec.ofNat 32 (0x13000000 + len.toNat) :: payload →
        (payload.length + 1 < (len.toNat + 3) / 4 →
          step s = .next { s with hostQueue := rest, cmdAsm := s.cmdAsm ++ [w] }) ∧
        (payload.length + 1 = (len.toNat + 3) / 4 →
          step s = afterCommand
            (exec (.emitActive len (payload ++ [w])) { s with hostQueue := rest, cmdAsm := s.cmdAsm ++ [w] }))) ∧
    (∀ (payload : List Word) (s : State), s.ProfileInv → s.configured = true →
      Faults (.emitActive 0#16 payload) s .malformedRow 0x13000000#32) ∧
    (∀ (p : Word) (s : State), s.ProfileInv → s.configured = true → s.ppl = 1#16 → Fits s 1 →
      Appends (.emitActive 1#16 [p]) s 1 (fun _ => BitVec.ofNat 12 (765 + 7 * (p.toNat % 256)))) ∧
    ∀ s : State, s.ProfileInv → s.configured = true → s.ppl = 208#16 → Fits s 254 →
      Appends (.emitActive 208#16 (List.replicate 52 0xFFFFFFFF#32)) s 254
        (fun k => if k < 18 then 0#12 else if k < 40 then 765#12 else if k < 248 then 2550#12 else 765#12)

/-- R80: byte k of a payload is in bits 8(k mod 4)+7 : 8(k mod 4) of word k div 4, there are LEN of them, and the padding
above the last one changes nothing. -/
def Obligations.PayloadBytesAreLittleEndian : Prop :=
  (∀ (len : BitVec 16) (payload : List Word), payload.length = (len.toNat + 3) / 4 →
      (payloadBytes len payload).length = len.toNat ∧
      ∀ (k : Nat) (w : Word), k < len.toNat → payload[k / 4]? = some w →
        (payloadBytes len payload)[k]? = some (w.extractLsb' (8 * (k % 4)) 8)) ∧
    ∀ (len : BitVec 16) (p q : List Word) (s : State),
      p.length = (len.toNat + 3) / 4 → q.length = p.length →
      (∀ k, k < len.toNat → pixelByte p k = pixelByte q k) →
        exec (.emitActive len p) s = exec (.emitActive len q) s

/-- R132: the codes are the source's levels exactly. -/
def Obligations.PixelCodesAreTheLinearMapping : Prop :=
  amplitude codeSync = 0 ∧ amplitude codeBlank = 3 / 10 ∧
    (∀ p : Byte, (codePixel p).toNat = 765 + 7 * p.toNat ∧
      amplitude (codePixel p) = (p.toNat / 255 : ℚ) * (7 / 10) + 3 / 10 ∧ (codePixel p).toNat ≤ 2550) ∧
    codePixel 0#8 = codeBlank ∧ amplitude (codePixel 255#8) = 1

/-- R142: the host's binary64 amplitudes: SYNC is 0.0, BLANK is b(0.3), peak white is 1.0, and a pixel code is the three
rounded operations in their order. -/
def Obligations.HostAmplitudesAreTheRoundedFormula : Prop :=
  amplitude64 0#12 = some ⟨0, 0⟩ ∧
    (∀ p : Byte, amplitude64 (BitVec.ofNat 12 (765 + 7 * p.toNat)) =
      some ((((Binary64.ofNat p.toNat).div (Binary64.ofNat 255)).mul (.ofBits 0x3FE6666666666666#64)).add
        (.ofBits 0x3FD3333333333333#64))) ∧
    amplitude64 765#12 = some (.ofBits 0x3FD3333333333333#64) ∧
    ∃ one, amplitude64 2550#12 = some one ∧ one.toRat = 1

/-- R141: an EMIT command changes SAMPLE_BUF and SAMPLE_COUNT alone, or the fault state alone; what it appends
depends on the profile registers, PPL and the command alone. -/
def Obligations.EmitChangesBufferOrFaultState : Prop :=
  (∀ (i : Instr) (s : State), IsEmit i →
      (∃ (codes : List Code),
        exec i s = .next
          { s with sampleBuf := s.sampleBuf ++ codes, sampleCount := s.sampleCount + BitVec.ofNat 32 codes.length }) ∨
      ∃ (code : FaultCode) (header : Word), code ≠ .none ∧ exec i s = .next (faultEntry code header s)) ∧
    ∀ (i : Instr) (s s' t t' : State), IsEmit i → SameProfile s s' → exec i s = .next t → exec i s' = .next t' →
      t.faulted = false → t'.faulted = false →
        ∃ codes, t.sampleBuf = s.sampleBuf ++ codes ∧ t'.sampleBuf = s'.sampleBuf ++ codes

/-- R140: a successful EMIT command appends exactly its growth, computed ahead of time from the profile. -/
def Obligations.GrowthIsKnownAheadOfTime : Prop :=
  ∀ (i : Instr) (s t : State), s.Inv → IsEmit i → i.WellFormed → exec i s = .next t → t.faulted = false →
    t.sampleBuf.length = s.sampleBuf.length + growth s i ∧
      t.sampleCount.toNat = s.sampleCount.toNat + growth s i

/-! ## Control, the buffer and the history -/

/-- R220, R221: NOP has no effect, whatever the state, and needs no profile; a word of its opcode with a body is illegal;
a faulted engine does not run it. -/
def Obligations.NopHasNoEffect : Prop :=
  (∀ s : State, exec .nop s = .next s) ∧
    (∀ (w : Word) (payload : List Word), decodeCommand w payload = .ok .nop ↔ w = 0x00000000#32) ∧
    (∀ (w : Word) (payload : List Word), w.toNat / 2 ^ 24 = 0 → w.toNat % 2 ^ 24 ≠ 0 →
      decodeCommand w payload = .error .illegalCommand) ∧
    ∀ (s : State) (rest : List HostAction), NextWord s 0x00000000#32 rest → s.cmdAsm = [] →
      (s.faulted = false → step s = .next { s with hostQueue := rest }) ∧
      (s.faulted = true → step s = .fault .commandPortHalted)

/-- R222: the handoff. -/
def Obligations.HandoffTransfersTheBuffer : Prop :=
  (∀ s : State, exec .bufHandoff s = .next
      { s with history := s.history ++ [.handoff s.sampleBuf], sampleBuf := [], sampleCount := 0#32 }) ∧
    (∀ (w : Word) (payload : List Word), decodeCommand w payload = .ok .bufHandoff ↔ w = 0x30000000#32) ∧
    (∀ (w : Word) (payload : List Word), w.toNat / 2 ^ 24 = 0x30 → w.toNat % 2 ^ 24 ≠ 0 →
      decodeCommand w payload = .error .illegalCommand) ∧
    (∀ s : State, s.BufferInv → s.sampleCount = 0#32 →
      exec .bufHandoff s = .next { s with history := s.history ++ [.handoff []] }) ∧
    ∀ s t : State, s.ProfileInv → s.configured = true → s.ppl = 208#16 → s.sampleBuf = [] → s.sampleCount = 0#32 →
      Fits s 127 → exec .emitBlank s = .next t →
        ∃ u, exec .bufHandoff t = .next u ∧ u.history = s.history ++ [.handoff (List.replicate 127 765#12)] ∧
          u.sampleCount = 0#32

/-- R37, R35: a step only adds to the end of SAMPLE_BUF, or empties it, and it empties it only by a handoff that records
the whole of it or by reset. -/
def Obligations.SampleBufferIsAppendOnly : Prop :=
  ∀ s t : State, step s = .next t →
    (∃ codes, t.sampleBuf = s.sampleBuf ++ codes ∧ t.sampleCount = s.sampleCount + BitVec.ofNat 32 codes.length) ∨
    (t.sampleBuf = [] ∧ t.sampleCount = 0#32 ∧
      (s.hostQueue.head? = some .assertReset ∨ t.history = s.history ++ [.handoff s.sampleBuf]))

/-- R57: a step adds at most one event, after the ones before it: a handoff of the whole buffer, or the fault that is
entered. -/
def Obligations.HistoryOnlyGrows : Prop :=
  ∀ s t : State, step s = .next t →
    t.history = s.history ∨
    (t.history = s.history ++ [.handoff s.sampleBuf] ∧ t.sampleBuf = [] ∧ t.faulted = s.faulted ∧
      ∃ w, s.hostQueue.head? = some (.commandWord w) ∧ decode (.command (s.cmdAsm ++ [w])) = .ok .bufHandoff) ∨
    ∃ code info, t.history = s.history ++ [.fault code info] ∧ s.faulted = false ∧ t.faulted = true ∧
      t.faultCode = code ∧ t.faultInfo = info

/-! ## Faults -/

/-- R243, R244: when the word that ends a command leads to a fault, the fault entry is all that happens, and FAULT_INFO
is the command's first word, which carries the LEN or the PW it faulted on. -/
def Obligations.FaultEntryIsPrecise : Prop :=
  ∀ (s t : State) (w h : Word) (words : List Word) (rest : List HostAction),
    NextWord s w rest → s.faulted = false → s.cmdAsm ++ [w] = h :: words → step s = .next t → t.faulted = true →
      ∃ code, code ≠ .none ∧ t = faultEntry code h { s with hostQueue := rest } ∧
        (code = .malformedRow → h.toNat % 2 ^ 16 ≠ s.ppl.toNat) ∧
        (code = .segmentUnderflow → s.scanlineSamples.toNat / 2 < h.toNat % 2 ^ 16)

/-- R241: the codes as FAULT_CODE reads, and no other value. -/
def Obligations.FaultCodesReadAsTheirNumbers : Prop :=
  (∀ s : State, (s.registerAt 0x04#8).toNat =
      match s.faultCode with
      | .none => 0
      | .configError => 1
      | .malformedRow => 2
      | .illegalCommand => 3
      | .notConfigured => 4
      | .reconfigure => 5
      | .segmentUnderflow => 6
      | .bufferOverflow => 7) ∧
    ∀ (s : State) (k : Nat), 3 ≤ k → (s.registerAt 0x04#8).getLsbD k = false

/-- R242: the first condition that holds, in the rule's order, is the one reported. -/
def Obligations.FaultPriority : Prop :=
  (∀ (s : State) (w : Word) (rest : List HostAction),
      NextWord s w rest → s.faulted = false → s.cmdAsm = [] → decodeCommand w [] = .error .illegalCommand →
        ∃ t, step s = .next t ∧ t.faultCode = .illegalCommand) ∧
    (∀ (n : BitVec 16) (s : State), ∃ t, exec (.configure n) s = .next t ∧
      t.faultCode = (if s.configured = true then .reconfigure else if n = 0#16 then .configError else s.faultCode)) ∧
    (∀ (i : Instr) (s : State), IsEmit i → ∃ t, exec i s = .next t ∧
      t.faultCode =
        (if s.configured = false then .notConfigured
         else
          match i with
          | .emitActive len _ =>
            if len ≠ s.ppl then .malformedRow
            else if s.config.bufCap.toNat < s.sampleCount.toNat + growth s i then .bufferOverflow else s.faultCode
          | .emitPulse _ pw =>
            if s.scanlineSamples.toNat / 2 < pw.toNat then .segmentUnderflow
            else if s.config.bufCap.toNat < s.sampleCount.toNat + growth s i then .bufferOverflow else s.faultCode
          | _ => if s.config.bufCap.toNat < s.sampleCount.toNat + growth s i then .bufferOverflow else s.faultCode)) ∧
    ∀ s : State, ∃ t u, exec .nop s = .next t ∧ exec .bufHandoff s = .next u ∧
      t.faultCode = s.faultCode ∧ u.faultCode = s.faultCode

/-- R245: a halted engine takes no word, while register reads and the teletext port go on. -/
def Obligations.HaltedEngineTakesNoWord : Prop :=
  (∀ (s : State) (w : Word) (rest : List HostAction), s.faulted = true → NextWord s w rest →
      step s = .fault .commandPortHalted) ∧
    (∀ (s : State) (offset : BitVec 8) (rest : List HostAction), s.faulted = true → offset.toNat % 4 = 0 →
      s.hostQueue = .registerRead offset 32 :: rest →
        step s = .next { s with hostQueue := rest, readLog := s.readLog ++ [(offset, s.registerAt offset)] }) ∧
    ∀ (s : State) (t : TtWord) (rest : List HostAction), s.faulted = true → s.hostQueue = .teletextWord t :: rest →
      step s = .next
        { s with hostQueue := rest, ttIn := t, ttOut := (ttOutputs t).1, ttErr := (ttOutputs t).2 }

/-- R246: only reset ends the faulted state, and the first fault stays recorded until then. -/
def Obligations.OnlyResetLeavesTheFault : Prop :=
  (∀ s t : State, s.faulted = true → step s = .next t → s.hostQueue.head? ≠ some .assertReset →
      t.faulted = true ∧ t.faultCode = s.faultCode ∧ t.faultInfo = s.faultInfo) ∧
    ∀ (s : State) (rest : List HostAction), s.hostQueue = .assertReset :: rest →
      ∃ t, step s = .next t ∧ t.faulted = false ∧ t.faultCode = .none ∧ t.faultInfo = 0#32

/-! ## Registers, status and reset -/

/-- R22, R51: an aligned 32-bit read returns the register of the map, or 0, and changes nothing in the block (the host
keeps what it read, log 6); every other access to the window is refused, and no value is given. -/
def Obligations.RegisterWindowFollowsTheMap : Prop :=
  (∀ (s : State) (offset : BitVec 8) (rest : List HostAction),
    s.hostQueue = .registerRead offset 32 :: rest → offset.toNat % 4 = 0 →
      ∃ v, step s = .next { s with hostQueue := rest, readLog := s.readLog ++ [(offset, v)] } ∧
        (offset = 0x00#8 → v.toNat = (if s.faulted then 2 else 0) + (if s.configured then 1 else 0)) ∧
        (offset = 0x04#8 → v.toNat = s.faultCode.bits.toNat) ∧
        (offset = 0x08#8 → v = s.faultInfo) ∧
        (offset = 0x0C#8 → v.toNat = s.ppl.toNat) ∧
        (offset = 0x10#8 → v = s.frontPorch) ∧
        (offset = 0x14#8 → v = s.hsyncPulse) ∧
        (offset = 0x18#8 → v = s.backPorch) ∧
        (offset = 0x1C#8 → v = s.scanlineSamples) ∧
        (offset = 0x20#8 → v = s.halfShort) ∧
        (offset = 0x24#8 → v = s.halfBroad) ∧
        (offset = 0x28#8 → v = s.sampleFreqHz) ∧
        (offset = 0x2C#8 → v = s.pixelFreqHz) ∧
        (offset = 0x30#8 → v = s.sampleCount) ∧
        (0x34 ≤ offset.toNat → v = 0#32)) ∧
    (∀ (s : State) (offset : BitVec 8) (bits : Nat) (rest : List HostAction),
      s.hostQueue = .registerRead offset bits :: rest → (bits ≠ 32 ∨ offset.toNat % 4 ≠ 0) →
        ∃ r, step s = .refused r ∧ (r = .registerReadWidth ∨ r = .misalignedRegisterRead)) ∧
    ∀ (s : State) (offset : BitVec 8) (bits value : Nat) (rest : List HostAction),
      s.hostQueue = .registerWrite offset bits value :: rest → step s = .refused .registerWrite

/-- R23, R43: the two flags in STATUS; CONFIGURED is set by a successful CONFIGURE alone, FAULT by a fault entry alone,
and only reset clears either; fault_o is the FAULT flag. -/
def Obligations.StatusFlagsAreSetAndCleared : Prop :=
  (∀ s : State, (s.registerAt 0x00#8).getLsbD 0 = s.configured ∧ (s.registerAt 0x00#8).getLsbD 1 = s.faulted ∧
      (∀ k, 2 ≤ k → (s.registerAt 0x00#8).getLsbD k = false) ∧ s.faultO = (s.registerAt 0x00#8).getLsbD 1) ∧
    (∀ s t : State, step s = .next t → s.configured = false → t.configured = true →
      ∃ (w : Word) (n : BitVec 16), s.hostQueue.head? = some (.commandWord w) ∧ s.faulted = false ∧ n ≠ 0#16 ∧
        decode (.command (s.cmdAsm ++ [w])) = .ok (.configure n) ∧ t.ppl = n) ∧
    (∀ s t : State, step s = .next t → s.faulted = false → t.faulted = true →
      ∃ code info, t.history = s.history ++ [.fault code info] ∧ t.faultCode = code ∧ code ≠ .none) ∧
    (∀ s t : State, step s = .next t → s.configured = true → t.configured = false →
      s.hostQueue.head? = some .assertReset) ∧
    (∀ s t : State, step s = .next t → s.faulted = true → t.faulted = false →
      s.hostQueue.head? = some .assertReset) ∧
    State.reset.registerAt 0x00#8 = 0#32

/-- R44, R270, R272, R273: reset gives every engine register and list its value of R44 from any state, a partly received
command included, so that every register reads 0; it touches neither the output history nor the teletext wires and
emits no event; the word after it is a header; and State.reset has the same values. -/
def Obligations.ResetRestoresEveryRegister : Prop :=
  (∀ (s : State) (rest : List HostAction), s.hostQueue = .assertReset :: rest →
      step s = .next
        { s with
          configured := false
          faulted := false
          faultCode := .none
          faultInfo := 0#32
          ppl := 0#16
          frontPorch := 0#32
          hsyncPulse := 0#32
          backPorch := 0#32
          scanlineSamples := 0#32
          halfShort := 0#32
          halfBroad := 0#32
          sampleFreqHz := 0#32
          pixelFreqHz := 0#32
          sampleCount := 0#32
          sampleBuf := []
          cmdAsm := []
          hostQueue := rest }) ∧
    (∀ (s : State) (w : Word) (rest : List HostAction), s.hostQueue = .assertReset :: .commandWord w :: rest →
      ∃ t u, step s = .next t ∧ step t = .next u ∧
        (commandLength w ≠ 1 → u = { t with hostQueue := rest, cmdAsm := [w] }) ∧
        (decodeCommand w [] = .error .illegalCommand → u.faultInfo = w)) ∧
    (∀ offset : BitVec 8, State.reset.registerAt offset = 0#32) ∧ State.reset.sampleBuf = [] ∧
    State.reset.cmdAsm = [] ∧ State.reset.faultO = false ∧
    (State.reset.ttOut, State.reset.ttErr) = ttOutputs State.reset.ttIn

/-! ## Invariants -/

/-- R40 holds after reset, for every choice of the parameters. -/
def Obligations.ResetSatisfiesTheInvariant : Prop :=
  ∀ (c : Config) (queue : List HostAction), State.Inv { State.reset with config := c, hostQueue := queue }

/-- R40: every step from a state that meets the invariant, reached or not, leads to one that meets it. -/
def Obligations.StepKeepsTheInvariant : Prop :=
  ∀ s t : State, s.Inv → step s = .next t → t.Inv

/-- R40 (e), R35: what the invariant says of the registers a host reads. -/
def Obligations.ScanlineSumAndCountHold : Prop :=
  ∀ s : State, s.Inv →
    (s.configured = true → s.scanlineSamples.toNat =
      s.frontPorch.toNat + s.hsyncPulse.toNat + s.ppl.toNat + s.backPorch.toNat) ∧
    (s.registerAt 0x30#8).toNat = s.sampleBuf.length ∧ s.sampleBuf.length ≤ s.config.bufCap.toNat ∧
    (s.registerAt 0x04#8 = 0#32 ↔ s.faulted = false) ∧ s.cmdAsm.length ≤ 1 + 16384

/-- The parameters are arguments of the step: no step changes them (R20; log 3). -/
def Obligations.ParametersNeverChange : Prop :=
  ∀ s t : State, step s = .next t → t.config = s.config

/-! ## The teletext port -/

/-- R191 -/
def Obligations.TeletextNoneIsIdle : Prop :=
  (∀ s : State, exec .ttNone s = .next { s with ttIn := 0x0000#16, ttOut := 0x0000#16, ttErr := false }) ∧
    (∀ t : TtWord, decodeT t = .ok .ttNone ↔ t = 0x0000#16) ∧
    ∀ t : TtWord, t.toNat / 2 ^ 12 = 0 → t.toNat % 256 ≠ 0 → ttOutputs t = (0x0000#16, true)

/-- R192: even parity of `byte | 0x80`: 1 exactly when bits 6:0 have an even number of 1 bits; bit 7 never matters. -/
def Obligations.TeletextParityIsEvenParity : Prop :=
  (∀ (byte : BitVec 8) (s : State), exec (.ttParity byte) s = .next
      { s with
        ttIn := BitVec.ofNat 16 (0x1000 + byte.toNat)
        ttOut := BitVec.ofNat 16 (weight (byte.toNat ||| 0x80) % 2)
        ttErr := false }) ∧
    (∀ byte : BitVec 8, weight (byte.toNat ||| 0x80) % 2 = (1 + weight (byte.toNat % 128)) % 2) ∧
    (∀ (byte : BitVec 8) (s t u : State), exec (.ttParity byte) s = .next t →
      exec (.ttParity (byte ^^^ 0x80#8)) s = .next u → u.ttOut = t.ttOut) ∧
    (∀ t : TtWord, t &&& 0xFF00#16 = 0x1000#16 → decodeT t = .ok (.ttParity (BitVec.ofNat 8 t.toNat))) ∧
    ∀ t : TtWord, t.toNat / 2 ^ 8 % 16 ≠ 0 → ttOutputs t = (0x0000#16, true)

/-- R193, R194: the codeword of each nibble, from the source's equations and as the codebook lists it. -/
def Obligations.TeletextHammingIsTheCodebook : Prop :=
  (∀ (x : BitVec 4) (s : State), exec (.ttHamming x) s = .next
      { s with
        ttIn := BitVec.ofNat 16 (0x2000 + x.toNat)
        ttOut := BitVec.ofNat 16 (codebook.getD x.toNat 0)
        ttErr := false }) ∧
    (∀ x : BitVec 4,
      let d (k : Nat) : Nat := (x.getLsbD (k - 1)).toNat
      let p1 := (1 + d 1 + d 3 + d 4) % 2
      let p2 := (1 + d 1 + d 2 + d 4) % 2
      let p3 := (1 + d 1 + d 2 + d 3) % 2
      let p4 := (1 + p1 + d 1 + p2 + d 2 + p3 + d 3 + d 4) % 2
      codebook.getD x.toNat 0 =
        128 * p4 + 64 * d 4 + 32 * d 3 + 16 * p3 + 8 * d 2 + 4 * p2 + 2 * d 1 + p1) ∧
    codebook.map weight = [3, 1, 3, 5, 3, 5, 3, 5, 3, 5, 3, 5, 3, 5, 7, 5] ∧
    (∀ t : TtWord, t &&& 0xFFF0#16 = 0x2000#16 → decodeT t = .ok (.ttHamming (BitVec.ofNat 4 t.toNat))) ∧
    ∀ t : TtWord, t.toNat / 2 ^ 12 = 2 → (t.toNat / 16 % 16 ≠ 0 ∨ t.toNat / 2 ^ 8 % 16 ≠ 0) →
      ttOutputs t = (0x0000#16, true)

/-- R195: the codewords the port gives for any two nibbles differ in at least 4 bits; nearest-codeword decoding undoes
one flipped bit; two flipped bits are at distance 2 from the nearest codeword; and distinct nibbles have distinct words. -/
def Obligations.TeletextCodeCorrectsOneBit : Prop :=
  ∀ (x y : BitVec 4) (s t u : State), exec (.ttHamming x) s = .next t → exec (.ttHamming y) s = .next u →
    (x ≠ y → 4 ≤ distance t.ttOut.toNat u.ttOut.toNat ∧ t.ttOut ≠ u.ttOut) ∧
    (∀ j < 8, x ≠ y → distance (t.ttOut.toNat ^^^ 2 ^ j) t.ttOut.toNat < distance (t.ttOut.toNat ^^^ 2 ^ j) u.ttOut.toNat) ∧
    (∀ j < 8, ∀ k < 8, j ≠ k → distance (t.ttOut.toNat ^^^ 2 ^ j ^^^ 2 ^ k) t.ttOut.toNat = 2 ∧
      2 ≤ distance (t.ttOut.toNat ^^^ 2 ^ j ^^^ 2 ^ k) u.ttOut.toNat) ∧
    ∃ a b : BitVec 4, a ≠ b ∧ distance (codebook.getD a.toNat 0) (codebook.getD b.toNat 0) = 4

/-- R196: the packet address, low byte above high byte, from the codebook; the source's [2, 2] is that of (1, 2) (C1). -/
def Obligations.TeletextPacketAddress : Prop :=
  (∀ (mag : BitVec 3) (pkt : BitVec 5) (s : State), exec (.ttPktaddr mag pkt) s = .next
      { s with
        ttIn := BitVec.ofNat 16 (0x3000 + pkt.toNat * 8 + mag.toNat)
        ttOut := BitVec.ofNat 16
          (codebook.getD (mag.toNat % 8 + pkt.toNat % 2 * 8) 0 * 256 + codebook.getD (pkt.toNat / 2) 0)
        ttErr := false }) ∧
    (∀ (mag : BitVec 3) (pkt : BitVec 5), (packetAddress mag pkt).map BitVec.toNat =
      [codebook.getD (pkt.toNat / 2) 0, codebook.getD (mag.toNat % 8 + pkt.toNat % 2 * 8) 0]) ∧
    (∀ t : TtWord, t &&& 0xFF00#16 = 0x3000#16 →
      decodeT t = .ok (.ttPktaddr (BitVec.ofNat 3 t.toNat) (BitVec.ofNat 5 (t.toNat / 8)))) ∧
    (∀ t : TtWord, t.toNat / 2 ^ 8 % 16 ≠ 0 → ttOutputs t = (0x0000#16, true)) ∧
    packetAddress 0#3 0#5 = [0x15#8, 0x15#8] ∧ packetAddress 1#3 2#5 = [0x02#8, 0x02#8]

/-- R197: every illegal word answers 0x0000 and tt_err = 1 and changes nothing of the engine. -/
def Obligations.IllegalTeletextWordAnswersError : Prop :=
  ∀ (s : State) (t : TtWord) (rest : List HostAction), s.hostQueue = .teletextWord t :: rest →
    (4 ≤ t.toNat / 2 ^ 12 ∨ t.toNat / 2 ^ 8 % 16 ≠ 0 ∨ (t.toNat / 2 ^ 12 = 2 ∧ t.toNat / 16 % 16 ≠ 0) ∨
      (t.toNat / 2 ^ 12 = 0 ∧ t.toNat % 256 ≠ 0)) →
    ∃ u, step s = .next u ∧ u.ttOut = 0x0000#16 ∧ u.ttErr = true ∧ SameEngine s u

/-- R199, R190: the port answers the same in every engine state and leaves the engine alone, and no other action of the
host changes the port's wires. -/
def Obligations.TeletextPortAndEngineAreIndependent : Prop :=
  (∀ (s : State) (t : TtWord) (rest : List HostAction), s.hostQueue = .teletextWord t :: rest →
      ∃ u, step s = .next u ∧ (u.ttOut, u.ttErr) = ttOutputs t ∧ u.ttIn = t ∧ SameEngine s u ∧ u.history = s.history) ∧
    ∀ s u : State, step s = .next u → (∀ t, s.hostQueue.head? ≠ some (.teletextWord t)) →
      u.ttIn = s.ttIn ∧ u.ttOut = s.ttOut ∧ u.ttErr = s.ttErr

/-! ## The end of a run -/

/-- R281: what each end is; a faulted state is never a successful end; with no more words to send, a state that meets the
invariant is of exactly one kind; and then a step that is no reset changes nothing of the engine. What counts as a word
to send is read from the rule by inference (log 16). -/
def Obligations.RunEndsAsStated : Prop :=
  (∀ s : State, s.endedSuccessfully = true ↔
      (∀ w, HostAction.commandWord w ∉ s.hostQueue) ∧ s.cmdAsm = [] ∧ s.faulted = false) ∧
    (∀ s : State, s.endedFaulted = true ↔ s.faulted = true) ∧
    (∀ s : State, s.stuckWaiting = true ↔ (∀ w, HostAction.commandWord w ∉ s.hostQueue) ∧ s.cmdAsm ≠ []) ∧
    (∀ s : State, s.faulted = true → s.endedSuccessfully = false) ∧
    (∀ s : State, s.Inv → (∀ w, HostAction.commandWord w ∉ s.hostQueue) →
      (s.endedSuccessfully.toNat + s.endedFaulted.toNat + s.stuckWaiting.toNat = 1)) ∧
    (∀ s t : State, (∀ w, HostAction.commandWord w ∉ s.hostQueue) → s.hostQueue.head? ≠ some .assertReset →
      step s = .next t → SameEngine s t ∧ t.history = s.history ∧ t.endedSuccessfully = s.endedSuccessfully ∧
        t.endedFaulted = s.endedFaulted ∧ t.stuckWaiting = s.stuckWaiting) ∧
    ∀ s t : State, s.endedFaulted = true → s.hostQueue.head? ≠ some .assertReset → step s = .next t →
      SameEngine s t ∧ t.history = s.history ∧ t.endedFaulted = true
end

