-- ==== Sys2Proof/Laws/Binary64.lean ====
section
/-! SUPPORT. The rounding error of one binary64 operation: at most one part in 2^53 of the exact result, in the range
where the result is normal (R112's step). trunc is the floor of the exact value. -/

namespace Sys2Proof.Machine.Binary64

theorem pow2Den_pos (e : Int) : 0 < pow2Den e := Nat.pow_pos (by decide)

theorem pow2Num_pos (e : Int) : 0 < pow2Num e := Nat.pow_pos (by decide)

/-- The two halves of a power of two. -/
theorem pow2_ratio (e : Int) : (pow2Num e : ℚ) / pow2Den e = (2 : ℚ) ^ e := by
  unfold pow2Num pow2Den
  obtain ⟨n, rfl | rfl⟩ := e.eq_nat_or_neg
  · simp
  · simp

theorem toRat_eq (a : Binary64) : a.toRat = a.sig * (2 : ℚ) ^ a.exp := by
  rw [toRat, ← pow2_ratio]
  push_cast
  ring

/-- trunc is the floor of the exact value. -/
theorem trunc_eq_floor (a : Binary64) : a.trunc = ⌊a.toRat⌋₊ := by
  rw [toRat, Nat.floor_div_eq_div, trunc]

/-- Rounding to an integer errs by at most a half. -/
theorem roundNat_error (num den : Nat) (hd : 0 < den) : |(roundNat num den : ℚ) - (num : ℚ) / den| ≤ 1 / 2 := by
  have hdq : (0 : ℚ) < den := by exact_mod_cast hd
  have hdiv : (num : ℚ) / den = (num / den : Nat) + (num % den : Nat) / (den : ℚ) := by
    rw [eq_comm, ← mul_left_inj' hdq.ne', add_mul, div_mul_cancel₀ _ hdq.ne', div_mul_cancel₀ _ hdq.ne']
    exact_mod_cast Nat.div_add_mod' num den
  have hr0 : (0 : ℚ) ≤ (num % den : Nat) / (den : ℚ) := by positivity
  have hr1 : ((num % den : Nat) : ℚ) / den ≤ 1 := by
    rw [div_le_one hdq]
    exact_mod_cast (Nat.mod_lt num hd).le
  have half_le (h : 2 * (num % den) ≤ den) : ((num % den : Nat) : ℚ) / den ≤ 1 / 2 := by
    rw [div_le_div_iff₀ hdq two_pos]
    exact_mod_cast (by omega : num % den * 2 ≤ 1 * den)
  have le_half (h : den ≤ 2 * (num % den)) : 1 / 2 ≤ ((num % den : Nat) : ℚ) / den := by
    rw [div_le_div_iff₀ two_pos hdq]
    exact_mod_cast (by omega : 1 * den ≤ num % den * 2)
  rw [hdiv, roundNat]
  split
  · have := half_le (by omega)
    rw [abs_le]; constructor <;> linarith
  · split
    · have := le_half (by omega)
      push_cast
      rw [abs_le]; constructor <;> linarith
    · have h1 := le_half (by omega)
      have h2 := half_le (by omega)
      split <;> push_cast <;> rw [abs_le] <;> constructor <;> linarith

/-- The value rounded at exponent e, before it is normalised. -/
theorem roundAt_toRat (num den : Nat) (e : Int) :
    (roundAt num den e).toRat = (roundNat (num * pow2Den e) (den * pow2Num e) : ℚ) * 2 ^ e := by
  rw [toRat_eq, roundAt]
  split
  · rename_i h
    rw [h]
    push_cast
    rw [zpow_add₀ (by norm_num)]
    ring
  · rfl

theorem scaled_ratio (num den : Nat) (e : Int) :
    ((num * pow2Den e : Nat) : ℚ) / ((den * pow2Num e : Nat) : ℚ) = (num : ℚ) / den / 2 ^ e := by
  rw [← pow2_ratio]
  push_cast
  have h1 : (pow2Den e : ℚ) ≠ 0 := by exact_mod_cast (pow2Den_pos e).ne'
  have h2 : (pow2Num e : ℚ) ≠ 0 := by exact_mod_cast (pow2Num_pos e).ne'
  field_simp

/-- Rounding at exponent e errs by at most half a unit in that place. -/
theorem roundAt_error (num den : Nat) (hd : 0 < den) (e : Int) :
    |(roundAt num den e).toRat - (num : ℚ) / den| ≤ 2 ^ e / 2 := by
  have he : (0 : ℚ) < 2 ^ e := by positivity
  have h := roundNat_error (num * pow2Den e) (den * pow2Num e) (Nat.mul_pos hd (pow2Num_pos e))
  rw [scaled_ratio] at h
  rw [roundAt_toRat]
  have : (roundNat (num * pow2Den e) (den * pow2Num e) : ℚ) * 2 ^ e - (num : ℚ) / den =
      ((roundNat (num * pow2Den e) (den * pow2Num e) : ℚ) - (num : ℚ) / den / 2 ^ e) * 2 ^ e := by
    field_simp
  rw [this, abs_mul, abs_of_pos he]
  nlinarith

/-- log2 as bounds in ℚ. -/
theorem log2_bounds {n : Nat} (hn : 0 < n) : (2 : ℚ) ^ (n.log2 : Int) ≤ n ∧ (n : ℚ) < 2 ^ ((n.log2 : Int) + 1) := by
  constructor
  · rw [zpow_natCast]
    exact_mod_cast Nat.log2_self_le hn.ne'
  · rw [show ((n.log2 : Int) + 1) = ((n.log2 + 1 : Nat) : Int) by push_cast; rfl, zpow_natCast]
    exact_mod_cast Nat.lt_log2_self

theorem lt_scaled_iff (num den : Nat) (hd : 0 < den) (e : Int) :
    num * pow2Den e < 2 ^ 53 * (den * pow2Num e) ↔ (num : ℚ) / den < 2 ^ (e + 53) := by
  have hdq : (0 : ℚ) < den := by exact_mod_cast hd
  have h1 : (0 : ℚ) < pow2Den e := by exact_mod_cast pow2Den_pos e
  rw [zpow_add₀ (by norm_num), ← pow2_ratio, div_lt_iff₀ hdq, div_mul_eq_mul_div, div_mul_eq_mul_div, lt_div_iff₀ h1]
  constructor
  · intro h
    have : ((num * pow2Den e : Nat) : ℚ) < ((2 ^ 53 * (den * pow2Num e) : Nat) : ℚ) := by exact_mod_cast h
    push_cast at this
    norm_num at this ⊢
    linarith
  · intro h
    have : ((num * pow2Den e : Nat) : ℚ) < ((2 ^ 53 * (den * pow2Num e) : Nat) : ℚ) := by
      push_cast
      norm_num at h ⊢
      linarith
    exact_mod_cast this

/-- A normal result has 53 significant bits. -/
theorem ulpExp_spec (num den : Nat) (hn : 0 < num) (hd : 0 < den) (hx : (2 : ℚ) ^ (-1000 : Int) ≤ (num : ℚ) / den) :
    (2 : ℚ) ^ (ulpExp num den + 52) ≤ (num : ℚ) / den := by
  have hdq : (0 : ℚ) < den := by exact_mod_cast hd
  obtain ⟨hn1, hn2⟩ := log2_bounds hn
  obtain ⟨hd1, hd2⟩ := log2_bounds hd
  have hlow : (2 : ℚ) ^ ((num.log2 : Int) - den.log2 - 1) ≤ (num : ℚ) / den := by
    rw [le_div_iff₀ hdq]
    calc (2 : ℚ) ^ ((num.log2 : Int) - den.log2 - 1) * den
        ≤ 2 ^ ((num.log2 : Int) - den.log2 - 1) * 2 ^ ((den.log2 : Int) + 1) := by gcongr
      _ = 2 ^ (num.log2 : Int) := by rw [← zpow_add₀ (by norm_num)]; congr 1; ring
      _ ≤ num := hn1
  have clamp (e : Int) (he : (2 : ℚ) ^ (e + 52) ≤ (num : ℚ) / den) :
      (2 : ℚ) ^ (max e (-1074) + 52) ≤ (num : ℚ) / den := by
    rcases max_cases e (-1074) with ⟨h, -⟩ | ⟨h, -⟩
    · rwa [h]
    · rw [h]
      exact le_trans (zpow_le_zpow_right₀ (by norm_num) (by norm_num)) hx
  simp only [ulpExp]
  apply clamp
  split
  · convert hlow using 2
    ring
  · rename_i h
    rw [lt_scaled_iff num den hd, not_lt] at h
    rwa [add_assoc, show (1 : Int) + 52 = 53 from rfl]

/-- One correctly rounded result (R112): the relative error is at most 2^-53. -/
theorem ofRatio_error (num den : Nat) (hn : 0 < num) (hd : 0 < den)
    (hx : (2 : ℚ) ^ (-1000 : Int) ≤ (num : ℚ) / den) :
    |(ofRatio num den).toRat - (num : ℚ) / den| ≤ (num : ℚ) / den / 2 ^ 53 := by
  rw [ofRatio, if_neg hn.ne']
  refine (roundAt_error num den hd _).trans ?_
  have h := ulpExp_spec num den hn hd hx
  rw [zpow_add₀ (by norm_num)] at h
  rw [div_le_div_iff₀ (by norm_num) (by norm_num)]
  norm_num at h ⊢
  linarith

theorem mul_error (a b : Binary64) (ha : 0 < a.sig) (hb : 0 < b.sig)
    (hx : (2 : ℚ) ^ (-1000 : Int) ≤ a.toRat * b.toRat) :
    |(mul a b).toRat - a.toRat * b.toRat| ≤ a.toRat * b.toRat / 2 ^ 53 := by
  have hv : ((a.sig * b.sig * pow2Num (a.exp + b.exp) : Nat) : ℚ) / (pow2Den (a.exp + b.exp) : Nat) =
      a.toRat * b.toRat := by
    rw [toRat_eq, toRat_eq]
    push_cast
    rw [mul_div_assoc, pow2_ratio, zpow_add₀ (by norm_num)]
    ring
  have h := ofRatio_error (a.sig * b.sig * pow2Num (a.exp + b.exp)) (pow2Den (a.exp + b.exp))
    (Nat.mul_pos (Nat.mul_pos ha hb) (pow2Num_pos _)) (pow2Den_pos _) (by rwa [hv])
  rwa [hv] at h

theorem div_error (a b : Binary64) (ha : 0 < a.sig) (hb : 0 < b.sig)
    (hx : (2 : ℚ) ^ (-1000 : Int) ≤ a.toRat / b.toRat) :
    |(div a b).toRat - a.toRat / b.toRat| ≤ a.toRat / b.toRat / 2 ^ 53 := by
  have hbq : (b.sig : ℚ) ≠ 0 := by exact_mod_cast hb.ne'
  have hv : ((a.sig * pow2Num (a.exp - b.exp) : Nat) : ℚ) / ((b.sig * pow2Den (a.exp - b.exp) : Nat) : ℚ) =
      a.toRat / b.toRat := by
    rw [toRat_eq, toRat_eq]
    push_cast
    rw [mul_div_mul_comm, pow2_ratio, zpow_sub₀ (by norm_num)]
    field_simp
  have h := ofRatio_error (a.sig * pow2Num (a.exp - b.exp)) (b.sig * pow2Den (a.exp - b.exp))
    (Nat.mul_pos ha (pow2Num_pos _)) (Nat.mul_pos hb (pow2Den_pos _)) (by rwa [hv])
  rwa [hv] at h

/-- Below 2^53 the last place is at most 1. -/
theorem ulpExp_nonpos (num den : Nat) (hn : 0 < num) (hd : 0 < den)
    (hx : (2 : ℚ) ^ (-1000 : Int) ≤ (num : ℚ) / den) (hlt : num < 2 ^ 53 * den) : ulpExp num den ≤ 0 := by
  have hdq : (0 : ℚ) < den := by exact_mod_cast hd
  have h := ulpExp_spec num den hn hd hx
  have h2 : (num : ℚ) / den < 2 ^ (53 : Int) := by
    rw [div_lt_iff₀ hdq]
    exact_mod_cast hlt
  have := (zpow_lt_zpow_iff_right₀ (a := (2 : ℚ)) (by norm_num)).1 (h.trans_lt h2)
  omega

/-- Rounding never falls below an integer that the exact value has reached. -/
theorem le_toRat_ofRatio (N num den : Nat) (hN : 0 < N) (hd : 0 < den) (h : N * den ≤ num) (hlt : num < 2 ^ 53 * den) :
    (N : ℚ) ≤ (ofRatio num den).toRat := by
  have hn : 0 < num := lt_of_lt_of_le (Nat.mul_pos hN hd) h
  have hdq : (0 : ℚ) < den := by exact_mod_cast hd
  have hx : (2 : ℚ) ^ (-1000 : Int) ≤ (num : ℚ) / den := by
    have h1 : (1 : ℚ) ≤ (num : ℚ) / den := by
      rw [le_div_iff₀ hdq, one_mul]
      exact_mod_cast (Nat.le_mul_of_pos_left den hN).trans h
    exact le_trans (zpow_le_one_of_nonpos₀ (by norm_num) (by norm_num)) h1
  have he := ulpExp_nonpos num den hn hd hx hlt
  rw [ofRatio, if_neg hn.ne', roundAt_toRat]
  obtain ⟨k, hk⟩ := Int.exists_eq_neg_ofNat he
  rw [hk]
  have hnum : pow2Num (-(k : Int)) = 1 := by simp [pow2Num]
  have hden : pow2Den (-(k : Int)) = 2 ^ k := by simp [pow2Den]
  rw [hnum, hden, mul_one]
  have hq : N * 2 ^ k ≤ roundNat (num * 2 ^ k) den := by
    have h3 : N * 2 ^ k ≤ num * 2 ^ k / den := by
      rw [Nat.le_div_iff_mul_le hd]
      calc N * 2 ^ k * den = N * den * 2 ^ k := by ring
        _ ≤ num * 2 ^ k := Nat.mul_le_mul_right _ h
    simp only [roundNat]
    split
    · exact h3
    · split
      · omega
      · split <;> omega
  have hqq : ((N * 2 ^ k : Nat) : ℚ) ≤ (roundNat (num * 2 ^ k) den : ℚ) := by exact_mod_cast hq
  push_cast at hqq
  rw [zpow_neg, zpow_natCast, ← div_eq_mul_inv, le_div_iff₀ (by positivity)]
  exact hqq

/-- A quotient that has reached an integer below 2^53 is not rounded below it. -/
theorem le_toRat_div (N : Nat) (a b : Binary64) (hN : 0 < N) (hb : 0 < b.sig) (h : (N : ℚ) ≤ a.toRat / b.toRat)
    (hlt : a.toRat / b.toRat < 2 ^ 53) : (N : ℚ) ≤ (div a b).toRat := by
  have hbq : (b.sig : ℚ) ≠ 0 := by exact_mod_cast hb.ne'
  have hden : 0 < b.sig * pow2Den (a.exp - b.exp) := Nat.mul_pos hb (pow2Den_pos _)
  have hdq : (0 : ℚ) < ((b.sig * pow2Den (a.exp - b.exp) : Nat) : ℚ) := by exact_mod_cast hden
  have hv : ((a.sig * pow2Num (a.exp - b.exp) : Nat) : ℚ) / ((b.sig * pow2Den (a.exp - b.exp) : Nat) : ℚ) =
      a.toRat / b.toRat := by
    rw [toRat_eq, toRat_eq]
    push_cast
    rw [mul_div_mul_comm, pow2_ratio, zpow_sub₀ (by norm_num)]
    field_simp
  rw [← hv] at h hlt
  rw [le_div_iff₀ hdq] at h
  rw [div_lt_iff₀ hdq] at hlt
  exact le_toRat_ofRatio N _ _ hN hden (by exact_mod_cast h) (by exact_mod_cast hlt)

/-- Integers below 2^53 are binary64 values. -/
theorem ofNat_toRat (n : Nat) (h : n < 2 ^ 53) : (ofNat n).toRat = n := by
  rcases Nat.eq_zero_or_pos n with rfl | hn
  · simp [ofNat, ofRatio, toRat]
  have hx : (2 : ℚ) ^ (-1000 : Int) ≤ (n : ℚ) / (1 : Nat) := by
    have h1 : (1 : ℚ) ≤ (n : ℚ) / (1 : Nat) := by
      rw [Nat.cast_one, div_one]
      exact_mod_cast hn
    exact le_trans (zpow_le_one_of_nonpos₀ (by norm_num) (by norm_num)) h1
  have he := ulpExp_nonpos n 1 hn one_pos hx (by omega)
  obtain ⟨k, hk⟩ := Int.exists_eq_neg_ofNat he
  rw [ofNat, ofRatio, if_neg hn.ne', roundAt_toRat, hk]
  have hnum : pow2Num (-(k : Int)) = 1 := by simp [pow2Num]
  have hden : pow2Den (-(k : Int)) = 2 ^ k := by simp [pow2Den]
  rw [hnum, hden, zpow_neg, zpow_natCast]
  simp [roundNat, Nat.mod_one]

end Sys2Proof.Machine.Binary64
end

