-- ==== Sys2Proof/Laws/Decode.lean ====
section
/-! SUPPORT. The fields of an encoded word: each field function applied to each header form of the encoder gives back
the operand (R71-R75, R82). Proofs about decoding cite these instead of opening the words. -/

namespace Sys2Proof

variable (o : BitVec 8) (imm : BitVec 16) (sel : BitVec 2) (reps : BitVec 6)

/-- The bits of a concatenation, low half and high half, by index. -/
theorem extract_append_low {n m : Nat} (a : BitVec n) (b : BitVec m) : (a ++ b).extractLsb' 0 m = b := by
  ext i hi
  simp [BitVec.getElem_extractLsb', BitVec.getLsbD_append, hi, BitVec.getLsbD_eq_getElem]

@[simp] theorem opc_headerV0 : opc (headerV0 o) = o := by
  ext i hi
  simp only [opc, headerV0, BitVec.getElem_extractLsb', BitVec.getLsbD_append]
  rw [if_neg (by omega), show 24 + i - 24 = i by omega, BitVec.getLsbD_eq_getElem]

@[simp] theorem body_headerV0 : body (headerV0 o) = 0#24 := extract_append_low o 0#24

@[simp] theorem opc_headerImm : opc (headerImm o imm) = o := by
  ext i hi
  simp only [opc, headerImm, BitVec.getElem_extractLsb', BitVec.getLsbD_append]
  rw [if_neg (by omega), if_neg (by omega), show 24 + i - 16 - 8 = i by omega, BitVec.getLsbD_eq_getElem]

@[simp] theorem reservedByte_headerImm : reservedByte (headerImm o imm) = 0#8 := by
  ext i hi
  simp only [reservedByte, headerImm, BitVec.getElem_extractLsb', BitVec.getLsbD_append]
  rw [if_neg (by omega), if_pos (by omega)]
  simp

@[simp] theorem imm16_headerImm : imm16 (headerImm o imm) = imm := extract_append_low (o ++ 0#8) imm

@[simp] theorem opc_headerVS : opc (headerVS sel reps imm) = 0x10#8 := by
  ext i hi
  simp only [opc, headerVS, BitVec.getElem_extractLsb', BitVec.getLsbD_append]
  rw [if_neg (by omega), if_neg (by omega), if_neg (by omega), show 24 + i - 16 - 6 - 2 = i by omega,
    BitVec.getLsbD_eq_getElem]

@[simp] theorem pwsel_headerVS : pwsel (headerVS sel reps imm) = sel := by
  ext i hi
  simp only [pwsel, headerVS, BitVec.getElem_extractLsb', BitVec.getLsbD_append]
  rw [if_neg (by omega), if_neg (by omega), if_pos (by omega), show 22 + i - 16 - 6 = i by omega,
    BitVec.getLsbD_eq_getElem]

@[simp] theorem repsField_headerVS : repsField (headerVS sel reps imm) = reps := by
  ext i hi
  simp only [repsField, headerVS, BitVec.getElem_extractLsb', BitVec.getLsbD_append]
  rw [if_neg (by omega), if_pos (by omega), show 16 + i - 16 = i by omega, BitVec.getLsbD_eq_getElem]

@[simp] theorem imm16_headerVS : imm16 (headerVS sel reps imm) = imm :=
  extract_append_low (0x10#8 ++ sel ++ reps) imm

@[simp] theorem ttTop_ttWord (top : BitVec 4) (arg : BitVec 8) : ttTop (ttWord top arg) = top := by
  ext i hi
  simp only [ttTop, ttWord, BitVec.getElem_extractLsb', BitVec.getLsbD_append]
  rw [if_neg (by omega), if_neg (by omega), show 12 + i - 8 - 4 = i by omega, BitVec.getLsbD_eq_getElem]

@[simp] theorem ttReserved_ttWord (top : BitVec 4) (arg : BitVec 8) : ttReserved (ttWord top arg) = 0#4 := by
  ext i hi
  simp only [ttReserved, ttWord, BitVec.getElem_extractLsb', BitVec.getLsbD_append]
  rw [if_neg (by omega), if_pos (by omega)]
  simp

@[simp] theorem ttArg_ttWord (top : BitVec 4) (arg : BitVec 8) : ttArg (ttWord top arg) = arg :=
  extract_append_low (top ++ 0#4) arg

/-- The subfields of ARG for TT_HAMMING and TT_PKTADDR (R83). -/
@[simp] theorem extract_high_wordTtHamming (x : BitVec 4) : (wordTtHamming x).extractLsb' 4 4 = 0#4 := by
  revert x; decide

@[simp] theorem extract_nibble_wordTtHamming (x : BitVec 4) : (wordTtHamming x).extractLsb' 0 4 = x := by
  revert x; decide

@[simp] theorem extract_mag_wordTtPktaddr (mag : BitVec 3) (pkt : BitVec 5) :
    (wordTtPktaddr mag pkt).extractLsb' 0 3 = mag := by
  revert mag pkt; decide

@[simp] theorem extract_pkt_wordTtPktaddr (mag : BitVec 3) (pkt : BitVec 5) :
    (wordTtPktaddr mag pkt).extractLsb' 3 5 = pkt := by
  revert mag pkt; decide

@[simp] theorem ttTop_wordTtHamming (x : BitVec 4) : ttTop (wordTtHamming x) = 2#4 := ttTop_ttWord _ _
@[simp] theorem ttReserved_wordTtHamming (x : BitVec 4) : ttReserved (wordTtHamming x) = 0#4 := ttReserved_ttWord _ _
@[simp] theorem ttTop_wordTtPktaddr (mag : BitVec 3) (pkt : BitVec 5) : ttTop (wordTtPktaddr mag pkt) = 3#4 :=
  ttTop_ttWord _ _
@[simp] theorem ttReserved_wordTtPktaddr (mag : BitVec 3) (pkt : BitVec 5) : ttReserved (wordTtPktaddr mag pkt) = 0#4 :=
  ttReserved_ttWord _ _

/-- A header of another form takes no payload word (R79). -/
@[simp] theorem payloadWords_headerV0 (h : o ≠ 0x13#8) : payloadWords (headerV0 o) = 0 := by
  simp [payloadWords, h]

@[simp] theorem payloadWords_headerVS : payloadWords (headerVS sel reps imm) = 0 := by
  simp [payloadWords]

@[simp] theorem payloadWords_headerEmitActive : payloadWords (headerEmitActive imm) = payloadWordsOfLen imm := by
  simp [payloadWords, headerEmitActive]

@[simp] theorem payloadWords_headerConfigure : payloadWords (headerConfigure imm) = 0 := by
  simp [payloadWords, headerConfigure]

/-- The words CMD_ASM can hold: a header and at most 16384 payload words (R38, R79). -/
theorem commandLength_le (h : Word) : commandLength h ≤ 1 + 16384 := by
  unfold commandLength payloadWords payloadWordsOfLen
  split
  · have := (imm16 h).isLt
    omega
  · omega

/-- A complete list of words is a header with exactly its payload. -/
theorem complete_cons_iff (h : Word) (rest : List Word) : complete (h :: rest) = true ↔ rest.length = payloadWords h := by
  simp only [complete, commandLength, List.length_cons, beq_iff_eq]
  omega

/-- On a complete command the stream decoder is the command decoder, and nothing is left over. -/
theorem decode_command_of_complete (h : Word) (rest : List Word) (hc : complete (h :: rest) = true) :
    decode (.command (h :: rest)) = decodeCommand h rest := by
  rw [complete_cons_iff] at hc
  simp only [decode, decodeV, hc, lt_irrefl, if_false]
  rw [← hc, List.take_length, List.drop_length]
  cases decodeCommand h rest <;> rfl

end Sys2Proof
end

