-- ==== Sys2Proof/Laws/FrameSequence.lean ====
section
/-! SUPPORT. What a row of the host's image is as a command, and the closed form of R174 for COMPOSE's commands: 32
half-lines and 609 scanlines, whatever the image. -/

namespace Sys2Proof.Machine

open Sys2Proof

/-! ## packBytes -/

theorem length_packBytes : ∀ bytes : List Byte, (packBytes bytes).length = (bytes.length + 3) / 4
  | [] => rfl
  | [_] => by simp [packBytes]
  | [_, _] => by simp [packBytes]
  | [_, _, _] => by simp [packBytes]
  | _ :: _ :: _ :: _ :: rest => by
    simp only [packBytes, List.length_cons, length_packBytes rest]
    omega

/-- A byte below other bits, as numbers. -/
theorem toNat_append_byte {n : Nat} (x : BitVec n) (b : Byte) : (x ++ b).toNat = 2 ^ 8 * x.toNat + b.toNat := by
  rw [BitVec.toNat_append, Nat.shiftLeft_eq, Nat.mul_comm, Nat.two_pow_add_eq_or_of_lt b.isLt]

/-- The four places of a byte in a word, and the bytes of the words after it. -/
theorem first_word_or_later (k : Nat) : k = 0 ∨ k = 1 ∨ k = 2 ∨ k = 3 ∨ ∃ j, k = j + 4 := by
  rcases Nat.lt_or_ge k 4 with h | h
  · omega
  · exact .inr (.inr (.inr (.inr ⟨k - 4, by omega⟩)))

/-- Byte k of the packed words: byte k of the list in its place, and 0 in the padding (R80, R85). -/
theorem byte_packBytes : ∀ (bytes : List Byte) (k : Nat),
    ((packBytes bytes)[k / 4]?.getD 0#32).toNat / 2 ^ (8 * (k % 4)) % 256 = (bytes[k]?.getD 0#8).toNat
  | [], k => by simp [packBytes]
  | [a], k => by
    have ha := a.isLt
    obtain rfl | rfl | rfl | rfl | ⟨j, rfl⟩ := first_word_or_later k <;> simp [packBytes, toNat_append_byte] <;> omega
  | [a, b], k => by
    have ha := a.isLt
    have hb := b.isLt
    obtain rfl | rfl | rfl | rfl | ⟨j, rfl⟩ := first_word_or_later k <;> simp [packBytes, toNat_append_byte] <;> omega
  | [a, b, c], k => by
    have ha := a.isLt
    have hb := b.isLt
    have hc := c.isLt
    obtain rfl | rfl | rfl | rfl | ⟨j, rfl⟩ := first_word_or_later k <;> simp [packBytes, toNat_append_byte] <;> omega
  | a :: b :: c :: d :: rest, k => by
    have ha := a.isLt
    have hb := b.isLt
    have hc := c.isLt
    have hd := d.isLt
    obtain rfl | rfl | rfl | rfl | ⟨j, rfl⟩ := first_word_or_later k
    case inr.inr.inr.inr => simpa [packBytes] using byte_packBytes rest j
    all_goals simp [packBytes, toNat_append_byte]
    all_goals omega

/-! ## Rows -/

/-- Every way a row is encoded, or not (R85, R176). -/
theorem rowCommand_eq_some_iff (row : List Byte) (i : Instr) :
    rowCommand row = some i ↔ row.length < 2 ^ 16 ∧ i = .emitActive (BitVec.ofNat 16 row.length) (packBytes row) := by
  unfold rowCommand
  split <;> simp_all [eq_comm]

/-- What is sent for a row is a whole command: as many payload words as its LEN asks for. -/
theorem rowCommand_wellFormed {row : List Byte} {i : Instr} (h : rowCommand row = some i) : i.WellFormed := by
  obtain ⟨hlen, rfl⟩ := (rowCommand_eq_some_iff row i).1 h
  simp only [Instr.WellFormed, Instr.wellFormedCheck, payloadWordsOfLen, length_packBytes, BitVec.toNat_ofNat,
    Nat.mod_eq_of_lt hlen, beq_self_eq_true]

theorem rowOf_eq_some {image : SourceImage} {r : Nat} {i : Instr} (h : rowOf image r = some i) :
    ∃ row, image[r]? = some row ∧ rowCommand row = some i := by
  simpa [rowOf, Option.bind_eq_some_iff] using h

/-! ## The frame -/

theorem growth_rowOf {s : State} {image : SourceImage} {r : Nat} {i : Instr} (h : rowOf image r = some i) :
    growth s i = s.scanlineSamples.toNat := by
  obtain ⟨row, -, hrow⟩ := rowOf_eq_some h
  obtain ⟨-, rfl⟩ := (rowCommand_eq_some_iff row i).1 hrow
  rfl

/-- The rows of a field: one command each, and their growths. -/
theorem rows_of_field (s : State) (image : SourceImage) (rows : List Nat) (l : List Instr)
    (h : rows.mapM (rowOf image) = some l) :
    l.length = rows.length ∧ (l.map (growth s)).sum = rows.length * s.scanlineSamples.toNat := by
  induction rows generalizing l with
  | nil =>
    obtain rfl : l = [] := by simpa [eq_comm] using h
    simp
  | cons r rows ih =>
    rw [List.mapM_cons] at h
    simp only [Option.bind_eq_bind, Option.bind_eq_some_iff, Option.pure_def, Option.some.injEq] at h
    obtain ⟨i, hi, l', hl', rfl⟩ := h
    obtain ⟨h1, h2⟩ := ih l' hl'
    refine ⟨congrArg (· + 1) h1, ?_⟩
    simp only [List.length_cons, List.map_cons, List.sum_cons, h2, growth_rowOf hi, Nat.succ_mul]
    exact Nat.add_comm _ _

theorem length_field1Rows : field1Rows.length = 305 := by simp [field1Rows]

theorem length_field2Rows : field2Rows.length = 304 := by simp [field2Rows]

/-- The parts of a frame that has an encoding (R171). -/
theorem composeFrame_eq_some {image : SourceImage} {l : List Instr} (h : composeFrame image = some l) :
    ∃ field1 field2, field1Rows.mapM (rowOf image) = some field1 ∧ field2Rows.mapM (rowOf image) = some field2 ∧
      l = [vsync, equalize] ++ field1 ++ [equalize] ++ [vsync, equalize, .emitBlank] ++ field2 ++
        [.emitSynced, equalize] ++ [.bufHandoff] := by
  simp only [composeFrame, Option.bind_eq_bind, Option.bind_eq_some_iff, Option.pure_def, Option.some.injEq] at h
  obtain ⟨f1, h1, f2, h2, rfl⟩ := h
  exact ⟨f1, f2, h1, h2, rfl⟩

/-- R171: 618 commands. -/
theorem length_composeFrame {image : SourceImage} {l : List Instr} (h : composeFrame image = some l) :
    l.length = 618 := by
  obtain ⟨f1, f2, h1, h2, rfl⟩ := composeFrame_eq_some h
  simp [(rows_of_field State.reset image _ _ h1).1, (rows_of_field State.reset image _ _ h2).1, length_field1Rows,
    length_field2Rows]

/-- R174: L = 32 H + 609 S. -/
theorem growth_composeFrame (s : State) {image : SourceImage} {l : List Instr} (h : composeFrame image = some l) :
    (l.map (growth s)).sum = 32 * s.halfLine + 609 * s.scanlineSamples.toNat := by
  obtain ⟨f1, f2, h1, h2, rfl⟩ := composeFrame_eq_some h
  simp only [List.map_append, List.sum_append, (rows_of_field s image _ _ h1).2, (rows_of_field s image _ _ h2).2,
    length_field1Rows, length_field2Rows]
  simp [growth, vsync, equalize]
  omega

/-- A frame has an encoding when every row it reads has one (R170's precondition gives that). -/
theorem mapM_rowOf_isSome (image : SourceImage) (rows : List Nat) (h : ∀ r ∈ rows, (rowOf image r).isSome = true) :
    (rows.mapM (rowOf image)).isSome = true := by
  induction rows with
  | nil => rfl
  | cons r rows ih =>
    obtain ⟨i, hi⟩ := Option.isSome_iff_exists.1 (h r List.mem_cons_self)
    obtain ⟨l, hl⟩ := Option.isSome_iff_exists.1 (ih fun q hq => h q (List.mem_cons_of_mem _ hq))
    simp [List.mapM_cons, hi, hl]

/-- COMPOSE has its commands wherever its precondition holds (R170). -/
theorem composeFrame_isSome_of_ready {image : SourceImage} {s : State} (h : composeReady image s) :
    (composeFrame image).isSome = true := by
  obtain ⟨-, -, -, hlen, hrow⟩ := h
  have row (r : Nat) (hr : r < 625) : (rowOf image r).isSome = true := by
    have hlt : r < image.length := hlen.symm ▸ hr
    have hl : image[r].length < 2 ^ 16 := (hrow _ (List.getElem_mem hlt)).symm ▸ s.ppl.isLt
    simp only [rowOf, List.getElem?_eq_getElem hlt, Option.bind_eq_bind, Option.bind_some, rowCommand, if_pos hl,
      Option.isSome_some]
  have f1 := mapM_rowOf_isSome image field1Rows fun r hr => row r (by
    simp only [field1Rows, List.mem_map, List.mem_range] at hr
    omega)
  have f2 := mapM_rowOf_isSome image field2Rows fun r hr => row r (by
    simp only [field2Rows, List.mem_map, List.mem_range] at hr
    omega)
  obtain ⟨a, ha⟩ := Option.isSome_iff_exists.1 f1
  obtain ⟨b, hb⟩ := Option.isSome_iff_exists.1 f2
  simp [composeFrame, ha, hb]

end Sys2Proof.Machine
end

