-- ==== Sys2Proof/Laws/State.lean ====
section
/-! SUPPORT. One lemma for each field of State under each update of the machine, all by rfl: later proofs rewrite with
these and never unfold an update. -/

namespace Sys2Proof.Machine

open Sys2Proof

variable (s : State)

/-! ## Emit(event) (R12) -/

@[simp] theorem State.emitEvent_configured (e : Event) : (s.emitEvent e).configured = s.configured := rfl
@[simp] theorem State.emitEvent_faulted (e : Event) : (s.emitEvent e).faulted = s.faulted := rfl
@[simp] theorem State.emitEvent_faultCode (e : Event) : (s.emitEvent e).faultCode = s.faultCode := rfl
@[simp] theorem State.emitEvent_faultInfo (e : Event) : (s.emitEvent e).faultInfo = s.faultInfo := rfl
@[simp] theorem State.emitEvent_ppl (e : Event) : (s.emitEvent e).ppl = s.ppl := rfl
@[simp] theorem State.emitEvent_frontPorch (e : Event) : (s.emitEvent e).frontPorch = s.frontPorch := rfl
@[simp] theorem State.emitEvent_hsyncPulse (e : Event) : (s.emitEvent e).hsyncPulse = s.hsyncPulse := rfl
@[simp] theorem State.emitEvent_backPorch (e : Event) : (s.emitEvent e).backPorch = s.backPorch := rfl
@[simp] theorem State.emitEvent_scanlineSamples (e : Event) : (s.emitEvent e).scanlineSamples = s.scanlineSamples := rfl
@[simp] theorem State.emitEvent_halfShort (e : Event) : (s.emitEvent e).halfShort = s.halfShort := rfl
@[simp] theorem State.emitEvent_halfBroad (e : Event) : (s.emitEvent e).halfBroad = s.halfBroad := rfl
@[simp] theorem State.emitEvent_sampleFreqHz (e : Event) : (s.emitEvent e).sampleFreqHz = s.sampleFreqHz := rfl
@[simp] theorem State.emitEvent_pixelFreqHz (e : Event) : (s.emitEvent e).pixelFreqHz = s.pixelFreqHz := rfl
@[simp] theorem State.emitEvent_sampleCount (e : Event) : (s.emitEvent e).sampleCount = s.sampleCount := rfl
@[simp] theorem State.emitEvent_sampleBuf (e : Event) : (s.emitEvent e).sampleBuf = s.sampleBuf := rfl
@[simp] theorem State.emitEvent_cmdAsm (e : Event) : (s.emitEvent e).cmdAsm = s.cmdAsm := rfl
@[simp] theorem State.emitEvent_ttIn (e : Event) : (s.emitEvent e).ttIn = s.ttIn := rfl
@[simp] theorem State.emitEvent_ttOut (e : Event) : (s.emitEvent e).ttOut = s.ttOut := rfl
@[simp] theorem State.emitEvent_ttErr (e : Event) : (s.emitEvent e).ttErr = s.ttErr := rfl
@[simp] theorem State.emitEvent_history (e : Event) : (s.emitEvent e).history = s.history ++ [e] := rfl
@[simp] theorem State.emitEvent_readLog (e : Event) : (s.emitEvent e).readLog = s.readLog := rfl
@[simp] theorem State.emitEvent_hostQueue (e : Event) : (s.emitEvent e).hostQueue = s.hostQueue := rfl
@[simp] theorem State.emitEvent_config (e : Event) : (s.emitEvent e).config = s.config := rfl

/-! ## Append (R131) -/

@[simp] theorem State.appendCodes_configured (codes : List Code) : (s.appendCodes codes).configured = s.configured := rfl
@[simp] theorem State.appendCodes_faulted (codes : List Code) : (s.appendCodes codes).faulted = s.faulted := rfl
@[simp] theorem State.appendCodes_faultCode (codes : List Code) : (s.appendCodes codes).faultCode = s.faultCode := rfl
@[simp] theorem State.appendCodes_faultInfo (codes : List Code) : (s.appendCodes codes).faultInfo = s.faultInfo := rfl
@[simp] theorem State.appendCodes_ppl (codes : List Code) : (s.appendCodes codes).ppl = s.ppl := rfl
@[simp] theorem State.appendCodes_frontPorch (codes : List Code) : (s.appendCodes codes).frontPorch = s.frontPorch := rfl
@[simp] theorem State.appendCodes_hsyncPulse (codes : List Code) : (s.appendCodes codes).hsyncPulse = s.hsyncPulse := rfl
@[simp] theorem State.appendCodes_backPorch (codes : List Code) : (s.appendCodes codes).backPorch = s.backPorch := rfl
@[simp] theorem State.appendCodes_scanlineSamples (codes : List Code) : (s.appendCodes codes).scanlineSamples = s.scanlineSamples := rfl
@[simp] theorem State.appendCodes_halfShort (codes : List Code) : (s.appendCodes codes).halfShort = s.halfShort := rfl
@[simp] theorem State.appendCodes_halfBroad (codes : List Code) : (s.appendCodes codes).halfBroad = s.halfBroad := rfl
@[simp] theorem State.appendCodes_sampleFreqHz (codes : List Code) : (s.appendCodes codes).sampleFreqHz = s.sampleFreqHz := rfl
@[simp] theorem State.appendCodes_pixelFreqHz (codes : List Code) : (s.appendCodes codes).pixelFreqHz = s.pixelFreqHz := rfl
@[simp] theorem State.appendCodes_sampleCount (codes : List Code) : (s.appendCodes codes).sampleCount = s.sampleCount + BitVec.ofNat 32 codes.length := rfl
@[simp] theorem State.appendCodes_sampleBuf (codes : List Code) : (s.appendCodes codes).sampleBuf = s.sampleBuf ++ codes := rfl
@[simp] theorem State.appendCodes_cmdAsm (codes : List Code) : (s.appendCodes codes).cmdAsm = s.cmdAsm := rfl
@[simp] theorem State.appendCodes_ttIn (codes : List Code) : (s.appendCodes codes).ttIn = s.ttIn := rfl
@[simp] theorem State.appendCodes_ttOut (codes : List Code) : (s.appendCodes codes).ttOut = s.ttOut := rfl
@[simp] theorem State.appendCodes_ttErr (codes : List Code) : (s.appendCodes codes).ttErr = s.ttErr := rfl
@[simp] theorem State.appendCodes_history (codes : List Code) : (s.appendCodes codes).history = s.history := rfl
@[simp] theorem State.appendCodes_readLog (codes : List Code) : (s.appendCodes codes).readLog = s.readLog := rfl
@[simp] theorem State.appendCodes_hostQueue (codes : List Code) : (s.appendCodes codes).hostQueue = s.hostQueue := rfl
@[simp] theorem State.appendCodes_config (codes : List Code) : (s.appendCodes codes).config = s.config := rfl

/-! ## BUF_HANDOFF (R222) -/

@[simp] theorem State.handOff_configured : (s.handOff).configured = s.configured := rfl
@[simp] theorem State.handOff_faulted : (s.handOff).faulted = s.faulted := rfl
@[simp] theorem State.handOff_faultCode : (s.handOff).faultCode = s.faultCode := rfl
@[simp] theorem State.handOff_faultInfo : (s.handOff).faultInfo = s.faultInfo := rfl
@[simp] theorem State.handOff_ppl : (s.handOff).ppl = s.ppl := rfl
@[simp] theorem State.handOff_frontPorch : (s.handOff).frontPorch = s.frontPorch := rfl
@[simp] theorem State.handOff_hsyncPulse : (s.handOff).hsyncPulse = s.hsyncPulse := rfl
@[simp] theorem State.handOff_backPorch : (s.handOff).backPorch = s.backPorch := rfl
@[simp] theorem State.handOff_scanlineSamples : (s.handOff).scanlineSamples = s.scanlineSamples := rfl
@[simp] theorem State.handOff_halfShort : (s.handOff).halfShort = s.halfShort := rfl
@[simp] theorem State.handOff_halfBroad : (s.handOff).halfBroad = s.halfBroad := rfl
@[simp] theorem State.handOff_sampleFreqHz : (s.handOff).sampleFreqHz = s.sampleFreqHz := rfl
@[simp] theorem State.handOff_pixelFreqHz : (s.handOff).pixelFreqHz = s.pixelFreqHz := rfl
@[simp] theorem State.handOff_sampleCount : (s.handOff).sampleCount = 0#32 := rfl
@[simp] theorem State.handOff_sampleBuf : (s.handOff).sampleBuf = [] := rfl
@[simp] theorem State.handOff_cmdAsm : (s.handOff).cmdAsm = s.cmdAsm := rfl
@[simp] theorem State.handOff_ttIn : (s.handOff).ttIn = s.ttIn := rfl
@[simp] theorem State.handOff_ttOut : (s.handOff).ttOut = s.ttOut := rfl
@[simp] theorem State.handOff_ttErr : (s.handOff).ttErr = s.ttErr := rfl
@[simp] theorem State.handOff_history : (s.handOff).history = s.history ++ [.handoff s.sampleBuf] := rfl
@[simp] theorem State.handOff_readLog : (s.handOff).readLog = s.readLog := rfl
@[simp] theorem State.handOff_hostQueue : (s.handOff).hostQueue = s.hostQueue := rfl
@[simp] theorem State.handOff_config : (s.handOff).config = s.config := rfl

/-! ## fault entry (R244) -/

@[simp] theorem State.raiseFault_configured (code : FaultCode) (header : Word) : (s.raiseFault code header).configured = s.configured := rfl
@[simp] theorem State.raiseFault_faulted (code : FaultCode) (header : Word) : (s.raiseFault code header).faulted = true := rfl
@[simp] theorem State.raiseFault_faultCode (code : FaultCode) (header : Word) : (s.raiseFault code header).faultCode = code := rfl
@[simp] theorem State.raiseFault_faultInfo (code : FaultCode) (header : Word) : (s.raiseFault code header).faultInfo = header := rfl
@[simp] theorem State.raiseFault_ppl (code : FaultCode) (header : Word) : (s.raiseFault code header).ppl = s.ppl := rfl
@[simp] theorem State.raiseFault_frontPorch (code : FaultCode) (header : Word) : (s.raiseFault code header).frontPorch = s.frontPorch := rfl
@[simp] theorem State.raiseFault_hsyncPulse (code : FaultCode) (header : Word) : (s.raiseFault code header).hsyncPulse = s.hsyncPulse := rfl
@[simp] theorem State.raiseFault_backPorch (code : FaultCode) (header : Word) : (s.raiseFault code header).backPorch = s.backPorch := rfl
@[simp] theorem State.raiseFault_scanlineSamples (code : FaultCode) (header : Word) : (s.raiseFault code header).scanlineSamples = s.scanlineSamples := rfl
@[simp] theorem State.raiseFault_halfShort (code : FaultCode) (header : Word) : (s.raiseFault code header).halfShort = s.halfShort := rfl
@[simp] theorem State.raiseFault_halfBroad (code : FaultCode) (header : Word) : (s.raiseFault code header).halfBroad = s.halfBroad := rfl
@[simp] theorem State.raiseFault_sampleFreqHz (code : FaultCode) (header : Word) : (s.raiseFault code header).sampleFreqHz = s.sampleFreqHz := rfl
@[simp] theorem State.raiseFault_pixelFreqHz (code : FaultCode) (header : Word) : (s.raiseFault code header).pixelFreqHz = s.pixelFreqHz := rfl
@[simp] theorem State.raiseFault_sampleCount (code : FaultCode) (header : Word) : (s.raiseFault code header).sampleCount = s.sampleCount := rfl
@[simp] theorem State.raiseFault_sampleBuf (code : FaultCode) (header : Word) : (s.raiseFault code header).sampleBuf = s.sampleBuf := rfl
@[simp] theorem State.raiseFault_cmdAsm (code : FaultCode) (header : Word) : (s.raiseFault code header).cmdAsm = [] := rfl
@[simp] theorem State.raiseFault_ttIn (code : FaultCode) (header : Word) : (s.raiseFault code header).ttIn = s.ttIn := rfl
@[simp] theorem State.raiseFault_ttOut (code : FaultCode) (header : Word) : (s.raiseFault code header).ttOut = s.ttOut := rfl
@[simp] theorem State.raiseFault_ttErr (code : FaultCode) (header : Word) : (s.raiseFault code header).ttErr = s.ttErr := rfl
@[simp] theorem State.raiseFault_history (code : FaultCode) (header : Word) : (s.raiseFault code header).history = s.history ++ [.fault code header] := rfl
@[simp] theorem State.raiseFault_readLog (code : FaultCode) (header : Word) : (s.raiseFault code header).readLog = s.readLog := rfl
@[simp] theorem State.raiseFault_hostQueue (code : FaultCode) (header : Word) : (s.raiseFault code header).hostQueue = s.hostQueue := rfl
@[simp] theorem State.raiseFault_config (code : FaultCode) (header : Word) : (s.raiseFault code header).config = s.config := rfl

/-! ## reset (R270) -/

@[simp] theorem State.resetEngine_configured : (s.resetEngine).configured = State.reset.configured := rfl
@[simp] theorem State.resetEngine_faulted : (s.resetEngine).faulted = State.reset.faulted := rfl
@[simp] theorem State.resetEngine_faultCode : (s.resetEngine).faultCode = State.reset.faultCode := rfl
@[simp] theorem State.resetEngine_faultInfo : (s.resetEngine).faultInfo = State.reset.faultInfo := rfl
@[simp] theorem State.resetEngine_ppl : (s.resetEngine).ppl = State.reset.ppl := rfl
@[simp] theorem State.resetEngine_frontPorch : (s.resetEngine).frontPorch = State.reset.frontPorch := rfl
@[simp] theorem State.resetEngine_hsyncPulse : (s.resetEngine).hsyncPulse = State.reset.hsyncPulse := rfl
@[simp] theorem State.resetEngine_backPorch : (s.resetEngine).backPorch = State.reset.backPorch := rfl
@[simp] theorem State.resetEngine_scanlineSamples : (s.resetEngine).scanlineSamples = State.reset.scanlineSamples := rfl
@[simp] theorem State.resetEngine_halfShort : (s.resetEngine).halfShort = State.reset.halfShort := rfl
@[simp] theorem State.resetEngine_halfBroad : (s.resetEngine).halfBroad = State.reset.halfBroad := rfl
@[simp] theorem State.resetEngine_sampleFreqHz : (s.resetEngine).sampleFreqHz = State.reset.sampleFreqHz := rfl
@[simp] theorem State.resetEngine_pixelFreqHz : (s.resetEngine).pixelFreqHz = State.reset.pixelFreqHz := rfl
@[simp] theorem State.resetEngine_sampleCount : (s.resetEngine).sampleCount = State.reset.sampleCount := rfl
@[simp] theorem State.resetEngine_sampleBuf : (s.resetEngine).sampleBuf = State.reset.sampleBuf := rfl
@[simp] theorem State.resetEngine_cmdAsm : (s.resetEngine).cmdAsm = State.reset.cmdAsm := rfl
@[simp] theorem State.resetEngine_ttIn : (s.resetEngine).ttIn = s.ttIn := rfl
@[simp] theorem State.resetEngine_ttOut : (s.resetEngine).ttOut = s.ttOut := rfl
@[simp] theorem State.resetEngine_ttErr : (s.resetEngine).ttErr = s.ttErr := rfl
@[simp] theorem State.resetEngine_history : (s.resetEngine).history = s.history := rfl
@[simp] theorem State.resetEngine_readLog : (s.resetEngine).readLog = s.readLog := rfl
@[simp] theorem State.resetEngine_hostQueue : (s.resetEngine).hostQueue = s.hostQueue := rfl
@[simp] theorem State.resetEngine_config : (s.resetEngine).config = s.config := rfl

/-! ## STATUS.CONFIGURED (R23) -/

@[simp] theorem State.setConfigured_configured : (s.setConfigured).configured = true := rfl
@[simp] theorem State.setConfigured_faulted : (s.setConfigured).faulted = s.faulted := rfl
@[simp] theorem State.setConfigured_faultCode : (s.setConfigured).faultCode = s.faultCode := rfl
@[simp] theorem State.setConfigured_faultInfo : (s.setConfigured).faultInfo = s.faultInfo := rfl
@[simp] theorem State.setConfigured_ppl : (s.setConfigured).ppl = s.ppl := rfl
@[simp] theorem State.setConfigured_frontPorch : (s.setConfigured).frontPorch = s.frontPorch := rfl
@[simp] theorem State.setConfigured_hsyncPulse : (s.setConfigured).hsyncPulse = s.hsyncPulse := rfl
@[simp] theorem State.setConfigured_backPorch : (s.setConfigured).backPorch = s.backPorch := rfl
@[simp] theorem State.setConfigured_scanlineSamples : (s.setConfigured).scanlineSamples = s.scanlineSamples := rfl
@[simp] theorem State.setConfigured_halfShort : (s.setConfigured).halfShort = s.halfShort := rfl
@[simp] theorem State.setConfigured_halfBroad : (s.setConfigured).halfBroad = s.halfBroad := rfl
@[simp] theorem State.setConfigured_sampleFreqHz : (s.setConfigured).sampleFreqHz = s.sampleFreqHz := rfl
@[simp] theorem State.setConfigured_pixelFreqHz : (s.setConfigured).pixelFreqHz = s.pixelFreqHz := rfl
@[simp] theorem State.setConfigured_sampleCount : (s.setConfigured).sampleCount = s.sampleCount := rfl
@[simp] theorem State.setConfigured_sampleBuf : (s.setConfigured).sampleBuf = s.sampleBuf := rfl
@[simp] theorem State.setConfigured_cmdAsm : (s.setConfigured).cmdAsm = s.cmdAsm := rfl
@[simp] theorem State.setConfigured_ttIn : (s.setConfigured).ttIn = s.ttIn := rfl
@[simp] theorem State.setConfigured_ttOut : (s.setConfigured).ttOut = s.ttOut := rfl
@[simp] theorem State.setConfigured_ttErr : (s.setConfigured).ttErr = s.ttErr := rfl
@[simp] theorem State.setConfigured_history : (s.setConfigured).history = s.history := rfl
@[simp] theorem State.setConfigured_readLog : (s.setConfigured).readLog = s.readLog := rfl
@[simp] theorem State.setConfigured_hostQueue : (s.setConfigured).hostQueue = s.hostQueue := rfl
@[simp] theorem State.setConfigured_config : (s.setConfigured).config = s.config := rfl

/-! ## the profile registers (R100) -/

@[simp] theorem State.withProfile_configured (p : TimingProfile) : (s.withProfile p).configured = s.configured := rfl
@[simp] theorem State.withProfile_faulted (p : TimingProfile) : (s.withProfile p).faulted = s.faulted := rfl
@[simp] theorem State.withProfile_faultCode (p : TimingProfile) : (s.withProfile p).faultCode = s.faultCode := rfl
@[simp] theorem State.withProfile_faultInfo (p : TimingProfile) : (s.withProfile p).faultInfo = s.faultInfo := rfl
@[simp] theorem State.withProfile_ppl (p : TimingProfile) : (s.withProfile p).ppl = s.ppl := rfl
@[simp] theorem State.withProfile_frontPorch (p : TimingProfile) : (s.withProfile p).frontPorch = BitVec.ofNat 32 p.frontPorch := rfl
@[simp] theorem State.withProfile_hsyncPulse (p : TimingProfile) : (s.withProfile p).hsyncPulse = BitVec.ofNat 32 p.hsyncPulse := rfl
@[simp] theorem State.withProfile_backPorch (p : TimingProfile) : (s.withProfile p).backPorch = BitVec.ofNat 32 p.backPorch := rfl
@[simp] theorem State.withProfile_scanlineSamples (p : TimingProfile) : (s.withProfile p).scanlineSamples = BitVec.ofNat 32 p.scanlineSamples := rfl
@[simp] theorem State.withProfile_halfShort (p : TimingProfile) : (s.withProfile p).halfShort = BitVec.ofNat 32 p.halfShort := rfl
@[simp] theorem State.withProfile_halfBroad (p : TimingProfile) : (s.withProfile p).halfBroad = BitVec.ofNat 32 p.halfBroad := rfl
@[simp] theorem State.withProfile_sampleFreqHz (p : TimingProfile) : (s.withProfile p).sampleFreqHz = BitVec.ofNat 32 p.sampleFreqHz := rfl
@[simp] theorem State.withProfile_pixelFreqHz (p : TimingProfile) : (s.withProfile p).pixelFreqHz = BitVec.ofNat 32 p.pixelFreqHz := rfl
@[simp] theorem State.withProfile_sampleCount (p : TimingProfile) : (s.withProfile p).sampleCount = s.sampleCount := rfl
@[simp] theorem State.withProfile_sampleBuf (p : TimingProfile) : (s.withProfile p).sampleBuf = s.sampleBuf := rfl
@[simp] theorem State.withProfile_cmdAsm (p : TimingProfile) : (s.withProfile p).cmdAsm = s.cmdAsm := rfl
@[simp] theorem State.withProfile_ttIn (p : TimingProfile) : (s.withProfile p).ttIn = s.ttIn := rfl
@[simp] theorem State.withProfile_ttOut (p : TimingProfile) : (s.withProfile p).ttOut = s.ttOut := rfl
@[simp] theorem State.withProfile_ttErr (p : TimingProfile) : (s.withProfile p).ttErr = s.ttErr := rfl
@[simp] theorem State.withProfile_history (p : TimingProfile) : (s.withProfile p).history = s.history := rfl
@[simp] theorem State.withProfile_readLog (p : TimingProfile) : (s.withProfile p).readLog = s.readLog := rfl
@[simp] theorem State.withProfile_hostQueue (p : TimingProfile) : (s.withProfile p).hostQueue = s.hostQueue := rfl
@[simp] theorem State.withProfile_config (p : TimingProfile) : (s.withProfile p).config = s.config := rfl

/-! ## CONFIGURE's success (R100) -/

@[simp] theorem State.latchProfile_configured (n : BitVec 16) : (s.latchProfile n).configured = true := rfl
@[simp] theorem State.latchProfile_faulted (n : BitVec 16) : (s.latchProfile n).faulted = s.faulted := rfl
@[simp] theorem State.latchProfile_faultCode (n : BitVec 16) : (s.latchProfile n).faultCode = s.faultCode := rfl
@[simp] theorem State.latchProfile_faultInfo (n : BitVec 16) : (s.latchProfile n).faultInfo = s.faultInfo := rfl
@[simp] theorem State.latchProfile_ppl (n : BitVec 16) : (s.latchProfile n).ppl = n := rfl
@[simp] theorem State.latchProfile_frontPorch (n : BitVec 16) : (s.latchProfile n).frontPorch = BitVec.ofNat 32 (timingProfile s.config.numericMode n.toNat).frontPorch := rfl
@[simp] theorem State.latchProfile_hsyncPulse (n : BitVec 16) : (s.latchProfile n).hsyncPulse = BitVec.ofNat 32 (timingProfile s.config.numericMode n.toNat).hsyncPulse := rfl
@[simp] theorem State.latchProfile_backPorch (n : BitVec 16) : (s.latchProfile n).backPorch = BitVec.ofNat 32 (timingProfile s.config.numericMode n.toNat).backPorch := rfl
@[simp] theorem State.latchProfile_scanlineSamples (n : BitVec 16) : (s.latchProfile n).scanlineSamples = BitVec.ofNat 32 (timingProfile s.config.numericMode n.toNat).scanlineSamples := rfl
@[simp] theorem State.latchProfile_halfShort (n : BitVec 16) : (s.latchProfile n).halfShort = BitVec.ofNat 32 (timingProfile s.config.numericMode n.toNat).halfShort := rfl
@[simp] theorem State.latchProfile_halfBroad (n : BitVec 16) : (s.latchProfile n).halfBroad = BitVec.ofNat 32 (timingProfile s.config.numericMode n.toNat).halfBroad := rfl
@[simp] theorem State.latchProfile_sampleFreqHz (n : BitVec 16) : (s.latchProfile n).sampleFreqHz = BitVec.ofNat 32 (timingProfile s.config.numericMode n.toNat).sampleFreqHz := rfl
@[simp] theorem State.latchProfile_pixelFreqHz (n : BitVec 16) : (s.latchProfile n).pixelFreqHz = BitVec.ofNat 32 (timingProfile s.config.numericMode n.toNat).pixelFreqHz := rfl
@[simp] theorem State.latchProfile_sampleCount (n : BitVec 16) : (s.latchProfile n).sampleCount = s.sampleCount := rfl
@[simp] theorem State.latchProfile_sampleBuf (n : BitVec 16) : (s.latchProfile n).sampleBuf = s.sampleBuf := rfl
@[simp] theorem State.latchProfile_cmdAsm (n : BitVec 16) : (s.latchProfile n).cmdAsm = s.cmdAsm := rfl
@[simp] theorem State.latchProfile_ttIn (n : BitVec 16) : (s.latchProfile n).ttIn = s.ttIn := rfl
@[simp] theorem State.latchProfile_ttOut (n : BitVec 16) : (s.latchProfile n).ttOut = s.ttOut := rfl
@[simp] theorem State.latchProfile_ttErr (n : BitVec 16) : (s.latchProfile n).ttErr = s.ttErr := rfl
@[simp] theorem State.latchProfile_history (n : BitVec 16) : (s.latchProfile n).history = s.history := rfl
@[simp] theorem State.latchProfile_readLog (n : BitVec 16) : (s.latchProfile n).readLog = s.readLog := rfl
@[simp] theorem State.latchProfile_hostQueue (n : BitVec 16) : (s.latchProfile n).hostQueue = s.hostQueue := rfl
@[simp] theorem State.latchProfile_config (n : BitVec 16) : (s.latchProfile n).config = s.config := rfl

/-! ## the teletext wires (R190) -/

@[simp] theorem State.driveTeletext_configured (t r : TtWord) (e : Bool) : (s.driveTeletext t r e).configured = s.configured := rfl
@[simp] theorem State.driveTeletext_faulted (t r : TtWord) (e : Bool) : (s.driveTeletext t r e).faulted = s.faulted := rfl
@[simp] theorem State.driveTeletext_faultCode (t r : TtWord) (e : Bool) : (s.driveTeletext t r e).faultCode = s.faultCode := rfl
@[simp] theorem State.driveTeletext_faultInfo (t r : TtWord) (e : Bool) : (s.driveTeletext t r e).faultInfo = s.faultInfo := rfl
@[simp] theorem State.driveTeletext_ppl (t r : TtWord) (e : Bool) : (s.driveTeletext t r e).ppl = s.ppl := rfl
@[simp] theorem State.driveTeletext_frontPorch (t r : TtWord) (e : Bool) : (s.driveTeletext t r e).frontPorch = s.frontPorch := rfl
@[simp] theorem State.driveTeletext_hsyncPulse (t r : TtWord) (e : Bool) : (s.driveTeletext t r e).hsyncPulse = s.hsyncPulse := rfl
@[simp] theorem State.driveTeletext_backPorch (t r : TtWord) (e : Bool) : (s.driveTeletext t r e).backPorch = s.backPorch := rfl
@[simp] theorem State.driveTeletext_scanlineSamples (t r : TtWord) (e : Bool) : (s.driveTeletext t r e).scanlineSamples = s.scanlineSamples := rfl
@[simp] theorem State.driveTeletext_halfShort (t r : TtWord) (e : Bool) : (s.driveTeletext t r e).halfShort = s.halfShort := rfl
@[simp] theorem State.driveTeletext_halfBroad (t r : TtWord) (e : Bool) : (s.driveTeletext t r e).halfBroad = s.halfBroad := rfl
@[simp] theorem State.driveTeletext_sampleFreqHz (t r : TtWord) (e : Bool) : (s.driveTeletext t r e).sampleFreqHz = s.sampleFreqHz := rfl
@[simp] theorem State.driveTeletext_pixelFreqHz (t r : TtWord) (e : Bool) : (s.driveTeletext t r e).pixelFreqHz = s.pixelFreqHz := rfl
@[simp] theorem State.driveTeletext_sampleCount (t r : TtWord) (e : Bool) : (s.driveTeletext t r e).sampleCount = s.sampleCount := rfl
@[simp] theorem State.driveTeletext_sampleBuf (t r : TtWord) (e : Bool) : (s.driveTeletext t r e).sampleBuf = s.sampleBuf := rfl
@[simp] theorem State.driveTeletext_cmdAsm (t r : TtWord) (e : Bool) : (s.driveTeletext t r e).cmdAsm = s.cmdAsm := rfl
@[simp] theorem State.driveTeletext_ttIn (t r : TtWord) (e : Bool) : (s.driveTeletext t r e).ttIn = t := rfl
@[simp] theorem State.driveTeletext_ttOut (t r : TtWord) (e : Bool) : (s.driveTeletext t r e).ttOut = r := rfl
@[simp] theorem State.driveTeletext_ttErr (t r : TtWord) (e : Bool) : (s.driveTeletext t r e).ttErr = e := rfl
@[simp] theorem State.driveTeletext_history (t r : TtWord) (e : Bool) : (s.driveTeletext t r e).history = s.history := rfl
@[simp] theorem State.driveTeletext_readLog (t r : TtWord) (e : Bool) : (s.driveTeletext t r e).readLog = s.readLog := rfl
@[simp] theorem State.driveTeletext_hostQueue (t r : TtWord) (e : Bool) : (s.driveTeletext t r e).hostQueue = s.hostQueue := rfl
@[simp] theorem State.driveTeletext_config (t r : TtWord) (e : Bool) : (s.driveTeletext t r e).config = s.config := rfl

/-! ## Compound reads -/

@[simp] theorem State.appendCodes_halfLine (codes : List Code) : (s.appendCodes codes).halfLine = s.halfLine := rfl
@[simp] theorem State.raiseFault_halfLine (code : FaultCode) (header : Word) :
    (s.raiseFault code header).halfLine = s.halfLine := rfl
@[simp] theorem State.handOff_halfLine : s.handOff.halfLine = s.halfLine := rfl
@[simp] theorem State.appendCodes_profile (codes : List Code) : (s.appendCodes codes).profile = s.profile := rfl
@[simp] theorem State.raiseFault_profile (code : FaultCode) (header : Word) :
    (s.raiseFault code header).profile = s.profile := rfl
@[simp] theorem State.handOff_profile : s.handOff.profile = s.profile := rfl
@[simp] theorem State.driveTeletext_profile (t r : TtWord) (e : Bool) : (s.driveTeletext t r e).profile = s.profile := rfl

end Sys2Proof.Machine
end

