-- ==== Sys2Proof/Laws/Ops.lean ====
section
/-! SUPPORT. What each shared operation does, once: the lengths and the codes of the segments (R131-R133, R140), and
every way the frame of the EMIT commands can end (R130). -/

namespace Sys2Proof.Machine

open Sys2Proof

/-! ## Segments -/

@[simp] theorem length_rep (n : Nat) (c : Code) : (rep n c).length = n := by simp [rep]

theorem rep_add (m n : Nat) (c : Code) : rep (m + n) c = rep m c ++ rep n c :=
  List.replicate_add m n c

theorem length_pulseHalfLine {pw h : Nat} (hp : pw ≤ h) : (pulseHalfLine pw h).length = h := by
  simp [pulseHalfLine]
  omega

/-- The growth of a sync block (R133). -/
theorem length_syncBlock {pw h : Nat} (hp : pw ≤ h) (reps : Nat) : (syncBlock pw h reps).length = reps * h := by
  simp [syncBlock, List.length_flatten, length_pulseHalfLine hp]

/-- One more repetition goes after the others (R133). -/
theorem syncBlock_succ (pw h reps : Nat) : syncBlock pw h (reps + 1) = pulseHalfLine pw h ++ syncBlock pw h reps := by
  simp [syncBlock, List.replicate_succ]

theorem length_wordBytes (w : Word) : (wordBytes w).length = 4 := rfl

theorem length_flatMap_wordBytes (ws : List Word) : (ws.flatMap wordBytes).length = 4 * ws.length := by
  induction ws with
  | nil => rfl
  | cons w ws ih => simp [length_wordBytes, ih]; omega

/-- A well-formed payload holds all LEN bytes (R79, R80). -/
theorem length_payloadBytes (len : BitVec 16) (payload : List Word) (h : payload.length = payloadWordsOfLen len) :
    (payloadBytes len payload).length = len.toNat := by
  simp only [payloadBytes, List.length_take, length_flatMap_wordBytes, h, payloadWordsOfLen]
  omega

/-! ## Codes (R37, R132) -/

theorem codePixel_toNat (p : Byte) : (codePixel p).toNat = 765 + 7 * p.toNat := by
  have := p.isLt
  simp [codePixel]
  omega

theorem mem_rep {n : Nat} {c x : Code} (h : x ∈ rep n c) : x = c := List.eq_of_mem_replicate h

theorem mem_pulseHalfLine {pw h : Nat} {x : Code} (hx : x ∈ pulseHalfLine pw h) : x = codeSync ∨ x = codeBlank := by
  rcases List.mem_append.1 hx with hx | hx
  · exact .inl (mem_rep hx)
  · exact .inr (mem_rep hx)

theorem mem_syncBlock {pw h reps : Nat} {x : Code} (hx : x ∈ syncBlock pw h reps) : x = codeSync ∨ x = codeBlank := by
  simp only [syncBlock, List.mem_flatten, List.mem_replicate] at hx
  obtain ⟨l, ⟨-, rfl⟩, hl⟩ := hx
  exact mem_pulseHalfLine hl

/-! ## Append (R131) -/

@[simp] theorem appendCodes_nil (s : State) : s.appendCodes [] = s := by
  simp [State.appendCodes]

/-- Appending segments one after the other is appending them together. -/
theorem appendCodes_appendCodes (a b : List Code) (s : State) :
    (s.appendCodes a).appendCodes b = s.appendCodes (a ++ b) := by
  simp [State.appendCodes, BitVec.add_assoc, BitVec.ofNat_add]

/-- Append with n = 0 changes nothing (R131). -/
@[simp] theorem append_zero (c : Code) (s : State) : s.append c 0 = s := by
  simp [State.append, rep]

theorem fitsCapacity_iff (g : Nat) (s : State) :
    s.fitsCapacity g = true ↔ s.sampleCount.toNat + g ≤ s.config.bufCap.toNat := by
  simp [State.fitsCapacity]

/-! ## The frame of the EMIT commands (R130) -/

/-- Every way the frame can end, its conditions in the order of R242. -/
theorem emitFrame_cases (header : Word) (check : Option FaultCode) (g : Nat) (codes : List Code) (s : State) :
    (s.configured = false ∧ emitFrame header check g codes s = s.raiseFault .notConfigured header) ∨
    (∃ code, s.configured = true ∧ check = some code ∧ emitFrame header check g codes s = s.raiseFault code header) ∨
    (s.configured = true ∧ check = none ∧ ¬ s.sampleCount.toNat + g ≤ s.config.bufCap.toNat ∧
      emitFrame header check g codes s = s.raiseFault .bufferOverflow header) ∨
    (s.configured = true ∧ check = none ∧ s.sampleCount.toNat + g ≤ s.config.bufCap.toNat ∧
      emitFrame header check g codes s = s.appendCodes codes) := by
  unfold emitFrame
  cases hc : s.configured with
  | false => exact .inl ⟨rfl, by simp⟩
  | true =>
    cases check with
    | some code => exact .inr (.inl ⟨code, rfl, rfl, by simp⟩)
    | none =>
      by_cases hg : s.sampleCount.toNat + g ≤ s.config.bufCap.toNat
      · exact .inr (.inr (.inr ⟨rfl, rfl, hg, by simp [State.fitsCapacity, hg]⟩))
      · exact .inr (.inr (.inl ⟨rfl, rfl, hg, by simp [State.fitsCapacity, hg]⟩))

/-! One equation for each way, for a proof that knows which it is. -/

theorem emitFrame_unconfigured {s : State} (header : Word) (check : Option FaultCode) (g : Nat) (codes : List Code)
    (h : s.configured = false) : emitFrame header check g codes s = s.raiseFault .notConfigured header := by
  simp [emitFrame, h]

theorem emitFrame_check {s : State} (header : Word) (code : FaultCode) (g : Nat) (codes : List Code)
    (h : s.configured = true) : emitFrame header (some code) g codes s = s.raiseFault code header := by
  simp [emitFrame, h]

theorem emitFrame_overflow {s : State} (header : Word) (g : Nat) (codes : List Code) (h : s.configured = true)
    (hg : s.config.bufCap.toNat < s.sampleCount.toNat + g) :
    emitFrame header none g codes s = s.raiseFault .bufferOverflow header := by
  simp [emitFrame, h, State.fitsCapacity, Nat.not_le.2 hg]

theorem emitFrame_fits {s : State} (header : Word) (g : Nat) (codes : List Code) (h : s.configured = true)
    (hg : s.sampleCount.toNat + g ≤ s.config.bufCap.toNat) :
    emitFrame header none g codes s = s.appendCodes codes := by
  simp [emitFrame, h, State.fitsCapacity, hg]

/-- An EMIT command changes only the buffer and its count, or only the fault state (R141). -/
theorem emitFrame_effect (header : Word) (check : Option FaultCode) (g : Nat) (codes : List Code) (s : State) :
    emitFrame header check g codes s = s.appendCodes codes ∨
      ∃ code, emitFrame header check g codes s = s.raiseFault code header := by
  rcases emitFrame_cases header check g codes s with ⟨-, h⟩ | ⟨c, -, -, h⟩ | ⟨-, -, -, h⟩ | ⟨-, -, -, h⟩
  · exact .inr ⟨_, h⟩
  · exact .inr ⟨c, h⟩
  · exact .inr ⟨_, h⟩
  · exact .inl h

end Sys2Proof.Machine
end

