-- ==== Sys2Proof/Laws/PerInstr.lean ====
section
/-! SUPPORT. One statement for each instruction, a lemma for each constructor: EncodedLength, that a well-formed
instruction's words are as many as its header fixes (R79), so that the command port runs it when the last one arrives. -/

namespace Sys2Proof.Laws.EncodedLength

open Sys2Proof

/-- The words of a well-formed instruction are a complete command; a teletext operation is one port word. -/
def Statement (i : Instr) : Prop :=
  i.WellFormed → (∃ ws, encode i = .command ws ∧ complete ws = true) ∨ ∃ t, encode i = .teletext t

theorem nop : Statement .nop := fun _ => .inl ⟨_, rfl, by decide⟩

theorem configure (ppl : BitVec 16) : Statement (.configure ppl) :=
  fun _ => .inl ⟨_, rfl, (complete_cons_iff _ _).2 (by simp)⟩

theorem emitBroad (reps : BitVec 6) : Statement (.emitBroad reps) :=
  fun _ => .inl ⟨_, rfl, (complete_cons_iff _ _).2 (by simp [headerEmitBroad])⟩

theorem emitShort (reps : BitVec 6) : Statement (.emitShort reps) :=
  fun _ => .inl ⟨_, rfl, (complete_cons_iff _ _).2 (by simp [headerEmitShort])⟩

theorem emitPulse (reps : BitVec 6) (pw : BitVec 16) : Statement (.emitPulse reps pw) :=
  fun _ => .inl ⟨_, rfl, (complete_cons_iff _ _).2 (by simp [headerEmitPulse])⟩

theorem emitBlank : Statement .emitBlank := fun _ => .inl ⟨_, rfl, by decide⟩

theorem emitSynced : Statement .emitSynced := fun _ => .inl ⟨_, rfl, by decide⟩

theorem emitActive (len : BitVec 16) (payload : List Word) : Statement (.emitActive len payload) :=
  fun h => .inl ⟨_, rfl, (complete_cons_iff _ _).2 (by simpa [Instr.WellFormed, Instr.wellFormedCheck] using h)⟩

theorem bufHandoff : Statement .bufHandoff := fun _ => .inl ⟨_, rfl, by decide⟩

theorem ttNone : Statement .ttNone := fun _ => .inr ⟨_, rfl⟩

theorem ttParity (byte : BitVec 8) : Statement (.ttParity byte) := fun _ => .inr ⟨_, rfl⟩

theorem ttHamming (nibble : BitVec 4) : Statement (.ttHamming nibble) := fun _ => .inr ⟨_, rfl⟩

theorem ttPktaddr (mag : BitVec 3) (pkt : BitVec 5) : Statement (.ttPktaddr mag pkt) := fun _ => .inr ⟨_, rfl⟩

end Sys2Proof.Laws.EncodedLength
end

