-- ==== Sys2Proof/Laws/Profile.lean ====
section
/-! SUPPORT. How far the binary64 derivation (R112) can be from the exact one (R102-R109): the products are within one
part in 2^50, so their truncations agree wherever the exact product is no integer, that is for every n that 1039 does
not divide. -/

namespace Sys2Proof.Machine

open Binary64

/-- The floor of a value near `a / 1039`, when that is no integer. -/
theorem floor_near (a : Nat) (x : ℚ) (ha : a < 2 ^ 41) (hn : ¬ 1039 ∣ a)
    (hx : |x - (a : ℚ) / 1039| ≤ (a : ℚ) / 1039 / 2 ^ 50) : ⌊x⌋₊ = a / 1039 := by
  have hr0 : 1 ≤ a % 1039 := Nat.one_le_iff_ne_zero.2 fun h => hn (Nat.dvd_of_mod_eq_zero h)
  have hr1 : a % 1039 ≤ 1038 := by omega
  have hdiv : (a : ℚ) / 1039 = (a / 1039 : Nat) + (a % 1039 : Nat) / (1039 : ℚ) := by
    have : ((a : Nat) : ℚ) = (a / 1039 : Nat) * 1039 + (a % 1039 : Nat) := by exact_mod_cast (Nat.div_add_mod' a 1039).symm
    rw [this]
    ring_nf
  have hr0q : (1 : ℚ) / 1039 ≤ (a % 1039 : Nat) / (1039 : ℚ) := by
    have : (1 : ℚ) ≤ (a % 1039 : Nat) := by exact_mod_cast hr0
    gcongr
  have hr1q : ((a % 1039 : Nat) : ℚ) / 1039 ≤ 1038 / 1039 := by
    have : ((a % 1039 : Nat) : ℚ) ≤ 1038 := by exact_mod_cast hr1
    gcongr
  have hsmall : (a : ℚ) / 1039 / 2 ^ 50 < 1 / 1039 := by
    have : (a : ℚ) < 2199023255552 := by exact_mod_cast ha
    rw [div_div, div_lt_div_iff₀ (by norm_num) (by norm_num)]
    norm_num
    linarith
  obtain ⟨h1, h2⟩ := abs_le.1 hx
  rw [Nat.floor_eq_iff (by
    have : (0 : ℚ) ≤ (a / 1039 : Nat) := by positivity
    linarith)]
  constructor <;> linarith

/-- A relative error on top of a relative error. -/
theorem near_trans {x y z e d : ℚ} (he : 0 ≤ e) (hxy : |x - y| ≤ y * e) (hyz : |y - z| ≤ z * d) :
    |x - z| ≤ z * (e + d + e * d) := by
  obtain ⟨h1, h2⟩ := abs_le.1 hxy
  obtain ⟨h3, h4⟩ := abs_le.1 hyz
  have h5 : y * e ≤ (z + z * d) * e := mul_le_mul_of_nonneg_right (by linarith) he
  rw [abs_le]
  constructor <;> nlinarith

theorem ofNat_sig_pos (n : Nat) (h : n < 2 ^ 53) (hn : 1 ≤ n) : 0 < (ofNat n).sig := by
  by_contra h0
  have h1 := ofNat_toRat n h
  rw [toRat_eq, show (ofNat n).sig = 0 by omega] at h1
  have : (1 : ℚ) ≤ n := by exact_mod_cast hn
  simp at h1
  linarith

theorem sig_pos_of_toRat_pos (a : Binary64) (h : 0 < a.toRat) : 0 < a.sig := by
  by_contra h0
  rw [toRat_eq, show a.sig = 0 by omega] at h
  simp at h

theorem ten_pow_small {x : ℚ} (h : 1 / 10 ^ 9 ≤ x) : (2 : ℚ) ^ (-1000 : Int) ≤ x := by
  refine le_trans ?_ h
  calc (2 : ℚ) ^ (-1000 : Int) ≤ 2 ^ (-30 : Int) := zpow_le_zpow_right₀ (by norm_num) (by norm_num)
    _ ≤ 1 / 10 ^ 9 := by norm_num

/-- The exact value of b(51.95e-6). -/
theorem b64ActivePeriod_toRat : b64ActivePeriod.toRat = 7666466837033690 / 2 ^ 67 := by
  rw [show b64ActivePeriod = ⟨7666466837033690, -67⟩ by decide, toRat_eq]
  norm_num

/-- pf is the exact pixel frequency (R102) to within 1.1 parts in 2^52. -/
theorem pixelFreq64_near (n : Nat) (h1 : 1 ≤ n) (h2 : n < 65536) :
    |(pixelFreq64 n).toRat - 20000000 * (n : ℚ) / 1039| ≤ 20000000 * (n : ℚ) / 1039 * (1 / 2 ^ 51) := by
  have hn : (1 : ℚ) ≤ n := by exact_mod_cast h1
  have hnr : (ofNat n).toRat = n := ofNat_toRat n (by omega)
  have hq : (n : ℚ) / b64ActivePeriod.toRat = n * (2 ^ 67 / 7666466837033690) := by
    rw [b64ActivePeriod_toRat]; field_simp
  have hd := div_error (ofNat n) b64ActivePeriod (ofNat_sig_pos n (by omega) h1) (by decide)
    (ten_pow_small (by rw [hnr, hq]; norm_num; linarith))
  rw [hnr, hq, div_eq_mul_one_div _ (2 ^ 53 : ℚ)] at hd
  have hc : |(n : ℚ) * (2 ^ 67 / 7666466837033690) - 20000000 * (n : ℚ) / 1039| ≤
      20000000 * (n : ℚ) / 1039 * (1 / 2 ^ 53) := by
    rw [abs_le]
    constructor <;> norm_num <;> linarith
  refine (near_trans (by norm_num) hd hc).trans ?_
  have : (0 : ℚ) ≤ 20000000 * (n : ℚ) / 1039 := by positivity
  exact mul_le_mul_of_nonneg_left (by norm_num) this

/-- A product of R112 whose constant is `k / 20000000` to within one part in 2^52 is `k n / 1039` to within one in 2^50. -/
theorem product_near (c : Binary64) (k n : Nat) (hk : 1 ≤ k) (h1 : 1 ≤ n) (h2 : n < 65536)
    (hc : |c.toRat - (k : ℚ) / 20000000| ≤ (k : ℚ) / 20000000 * (1 / 2 ^ 52)) :
    |(c.mul (pixelFreq64 n)).toRat - ((k * n : Nat) : ℚ) / 1039| ≤ ((k * n : Nat) : ℚ) / 1039 / 2 ^ 50 := by
  have hn : (1 : ℚ) ≤ n := by exact_mod_cast h1
  have hkq : (1 : ℚ) ≤ k := by exact_mod_cast hk
  have hpf := pixelFreq64_near n h1 h2
  have hkn : (1 : ℚ) ≤ k * n := by nlinarith
  have hpl : 20000000 * (n : ℚ) / 1039 * (1 / 2) ≤ (pixelFreq64 n).toRat := by
    have := (abs_le.1 hpf).1
    have : (0 : ℚ) ≤ 20000000 * (n : ℚ) / 1039 := by positivity
    norm_num at *
    linarith
  have hcl : (k : ℚ) / 20000000 * (1 / 2) ≤ c.toRat := by
    have := (abs_le.1 hc).1
    have : (0 : ℚ) ≤ (k : ℚ) / 20000000 := by positivity
    norm_num at *
    linarith
  have hprod : |c.toRat * (pixelFreq64 n).toRat - (k * n : ℚ) / 1039| ≤
      (k * n : ℚ) / 1039 * (1 / 2 ^ 51 + 1 / 2 ^ 52 + 1 / 2 ^ 51 * (1 / 2 ^ 52)) := by
    have hA : |c.toRat * (pixelFreq64 n).toRat - c.toRat * (20000000 * (n : ℚ) / 1039)| ≤
        c.toRat * (20000000 * (n : ℚ) / 1039) * (1 / 2 ^ 51) := by
      rw [← mul_sub, abs_mul, abs_of_nonneg (by linarith [show (0 : ℚ) ≤ (k : ℚ) / 20000000 * (1 / 2) by positivity] : (0 : ℚ) ≤ c.toRat), mul_assoc]
      exact mul_le_mul_of_nonneg_left hpf (by linarith [show (0 : ℚ) ≤ (k : ℚ) / 20000000 * (1 / 2) by positivity])
    have hB : |c.toRat * (20000000 * (n : ℚ) / 1039) - (k * n : ℚ) / 1039| ≤ (k * n : ℚ) / 1039 * (1 / 2 ^ 52) := by
      have e1 : c.toRat * (20000000 * (n : ℚ) / 1039) - (k * n : ℚ) / 1039 =
          (c.toRat - (k : ℚ) / 20000000) * (20000000 * (n : ℚ) / 1039) := by ring
      have e2 : (k * n : ℚ) / 1039 * (1 / 2 ^ 52) = (k : ℚ) / 20000000 * (1 / 2 ^ 52) * (20000000 * (n : ℚ) / 1039) := by ring
      rw [e1, e2, abs_mul, abs_of_nonneg (by positivity : (0 : ℚ) ≤ 20000000 * (n : ℚ) / 1039)]
      exact mul_le_mul_of_nonneg_right hc (by positivity)
    exact near_trans (by norm_num) hA hB
  have hpos : (0 : ℚ) < (pixelFreq64 n).toRat := by
    have : (0 : ℚ) < 20000000 * (n : ℚ) / 1039 * (1 / 2) := by positivity
    linarith
  have hcpos : (0 : ℚ) < c.toRat := by
    have : (0 : ℚ) < (k : ℚ) / 20000000 * (1 / 2) := by positivity
    linarith
  have hbig : (1 : ℚ) / 10 ^ 9 ≤ c.toRat * (pixelFreq64 n).toRat := by
    have h3 : (k : ℚ) / 20000000 * (1 / 2) * (20000000 * (n : ℚ) / 1039 * (1 / 2)) ≤ c.toRat * (pixelFreq64 n).toRat :=
      mul_le_mul hcl hpl (by positivity) hcpos.le
    have h4 : (k : ℚ) / 20000000 * (1 / 2) * (20000000 * (n : ℚ) / 1039 * (1 / 2)) = k * n / 4156 := by ring
    rw [h4] at h3
    refine le_trans ?_ h3
    rw [div_le_div_iff₀ (by norm_num) (by norm_num)]
    norm_num
    linarith
  have hm := mul_error c (pixelFreq64 n) (sig_pos_of_toRat_pos _ hcpos) (sig_pos_of_toRat_pos _ hpos) (ten_pow_small hbig)
  rw [div_eq_mul_one_div _ (2 ^ 53 : ℚ)] at hm
  have hfin := near_trans (by norm_num) hm hprod
  push_cast
  refine hfin.trans ?_
  rw [div_eq_mul_one_div _ (2 ^ 50 : ℚ)]
  exact mul_le_mul_of_nonneg_left (by norm_num) (by positivity)

/-- The truncated product where the exact one is no integer. -/
theorem trunc_product (c : Binary64) (k n : Nat) (hk1 : 1 ≤ k) (hk2 : k < 1039) (h1 : 1 ≤ n) (h2 : n < 65536)
    (hn : ¬ 1039 ∣ n) (hc : |c.toRat - (k : ℚ) / 20000000| ≤ (k : ℚ) / 20000000 * (1 / 2 ^ 52)) :
    (c.mul (pixelFreq64 n)).trunc = k * n / 1039 := by
  rw [trunc_eq_floor]
  refine floor_near (k * n) _ ?_ ?_ (product_near c k n hk1 h1 h2 hc)
  · calc k * n ≤ 1039 * 65536 := Nat.mul_le_mul hk2.le h2.le
      _ < 2 ^ 41 := by norm_num
  · rw [Nat.Prime.dvd_mul (by norm_num)]
    rintro (h | h)
    · exact absurd (Nat.le_of_dvd (by omega) h) (by omega)
    · exact hn h

/-! ## The constants of R112 are the decimals of R101 to within one part in 2^52 -/

theorem b64FrontPorch_near : |b64FrontPorch.toRat - (33 : Nat) / 20000000| ≤ (33 : Nat) / 20000000 * (1 / 2 ^ 52) := by
  rw [show b64FrontPorch = ⟨7791904696734915, -72⟩ by decide, toRat_eq]
  norm_num [abs_le]

theorem b64Hsync_near : |b64Hsync.toRat - (94 : Nat) / 20000000| ≤ (94 : Nat) / 20000000 * (1 / 2 ^ 52) := by
  rw [show b64Hsync = ⟨5548780617371833, -70⟩ by decide, toRat_eq]
  norm_num [abs_le]

theorem b64BackPorch_near : |b64BackPorch.toRat - (114 : Nat) / 20000000| ≤ (114 : Nat) / 20000000 * (1 / 2 ^ 52) := by
  rw [show b64BackPorch = ⟨6729372238089244, -70⟩ by decide, toRat_eq]
  norm_num [abs_le]

theorem b64ShortPulse_near : |b64ShortPulse.toRat - (47 : Nat) / 20000000| ≤ (47 : Nat) / 20000000 * (1 / 2 ^ 52) := by
  rw [show b64ShortPulse = ⟨5548780617371833, -71⟩ by decide, toRat_eq]
  norm_num [abs_le]

/-- fl(b(32e-6) - b(4.7e-6)), the pattern R112 states. -/
theorem b64Broad_eq : b64HalfLine.sub b64Hsync = ofBits 0x3EFCA049B70336EC#64 := by decide +kernel

theorem b64Broad_near :
    |(b64HalfLine.sub b64Hsync).toRat - (546 : Nat) / 20000000| ≤ (546 : Nat) / 20000000 * (1 / 2 ^ 52) := by
  rw [b64Broad_eq, show ofBits 0x3EFCA049B70336EC#64 = ⟨8057537811396332, -68⟩ by decide, toRat_eq]
  norm_num [abs_le]

end Sys2Proof.Machine
end

