-- ==== Sys2Proof/Laws/Step.lean ====
section
/-! SUPPORT. What an instruction can do, and what a step can do, each said once: later proofs cite these two inversions
and never open exec or step again. -/

namespace Sys2Proof.Machine

open Sys2Proof

/-! ## exec -/

/-- Every instruction answers a next state, whatever the state: its faults are next states too (R244). -/
theorem exec_answers_next (i : Instr) (s : State) : ∃ t, exec i s = .next t := by
  cases i with
  | configure n =>
    simp only [exec, execConfigure]
    split
    · exact ⟨_, rfl⟩
    · split <;> exact ⟨_, rfl⟩
  | _ => exact ⟨_, rfl⟩

/-- What an instruction can do to the state. -/
theorem exec_cases {i : Instr} {s t : State} (h : exec i s = .next t) :
    (i = .nop ∧ t = s) ∨
    (∃ n, i = .configure n ∧ s.configured = false ∧ n ≠ 0#16 ∧ t = s.latchProfile n) ∨
    (∃ code header, code ≠ .none ∧ t = s.raiseFault code header) ∨
    (∃ codes, s.configured = true ∧ t = s.appendCodes codes) ∨
    (i = .bufHandoff ∧ t = s.handOff) ∨
    ∃ w r e, t = s.driveTeletext w r e := by
  have emit (header : Word) (check : Option FaultCode) (hcheck : check ≠ some .none) (g : Nat) (codes : List Code)
      (ht : t = emitFrame header check g codes s) :
      (∃ code header, code ≠ .none ∧ t = s.raiseFault code header) ∨
        ∃ codes, s.configured = true ∧ t = s.appendCodes codes := by
    rcases emitFrame_cases header check g codes s with ⟨-, e⟩ | ⟨c, -, hc, e⟩ | ⟨-, -, -, e⟩ | ⟨hc, -, -, e⟩
    · exact .inl ⟨_, _, by decide, ht.trans e⟩
    · exact .inl ⟨c, _, fun h0 => hcheck (by rw [hc, h0]), ht.trans e⟩
    · exact .inl ⟨_, _, by decide, ht.trans e⟩
    · exact .inr ⟨_, hc, ht.trans e⟩
  have next_inj {a b : State} (hab : (.next a : Host.Outcome State Fault Refusal) = .next b) : b = a := by
    injection hab with hab
    exact hab.symm
  cases i with
  | nop => exact .inl ⟨rfl, next_inj h⟩
  | configure n =>
    simp only [exec, execConfigure] at h
    split at h
    · exact .inr (.inr (.inl ⟨_, _, by decide, next_inj h⟩))
    · rename_i hc
      split at h
      · exact .inr (.inr (.inl ⟨_, _, by decide, next_inj h⟩))
      · exact .inr (.inl ⟨n, rfl, by simpa using hc, ‹_›, next_inj h⟩)
  | emitBroad reps =>
    rcases emit _ none (by decide) _ _ (next_inj h) with e | e
    · exact .inr (.inr (.inl e))
    · exact .inr (.inr (.inr (.inl e)))
  | emitShort reps =>
    rcases emit _ none (by decide) _ _ (next_inj h) with e | e
    · exact .inr (.inr (.inl e))
    · exact .inr (.inr (.inr (.inl e)))
  | emitPulse reps pw =>
    rcases emit _ _ (by unfold pulseFault; split <;> decide) _ _ (next_inj h) with e | e
    · exact .inr (.inr (.inl e))
    · exact .inr (.inr (.inr (.inl e)))
  | emitBlank =>
    rcases emit _ none (by decide) _ _ (next_inj h) with e | e
    · exact .inr (.inr (.inl e))
    · exact .inr (.inr (.inr (.inl e)))
  | emitSynced =>
    rcases emit _ none (by decide) _ _ (next_inj h) with e | e
    · exact .inr (.inr (.inl e))
    · exact .inr (.inr (.inr (.inl e)))
  | emitActive len payload =>
    rcases emit _ _ (by unfold rowFault; split <;> decide) _ _ (next_inj h) with e | e
    · exact .inr (.inr (.inl e))
    · exact .inr (.inr (.inr (.inl e)))
  | bufHandoff => exact .inr (.inr (.inr (.inr (.inl ⟨rfl, next_inj h⟩))))
  | ttNone => exact .inr (.inr (.inr (.inr (.inr ⟨_, _, _, next_inj h⟩))))
  | ttParity byte => exact .inr (.inr (.inr (.inr (.inr ⟨_, _, _, next_inj h⟩))))
  | ttHamming nibble => exact .inr (.inr (.inr (.inr (.inr ⟨_, _, _, next_inj h⟩))))
  | ttPktaddr mag pkt => exact .inr (.inr (.inr (.inr (.inr ⟨_, _, _, next_inj h⟩))))

/-! ## step -/

/-- The only way a header word is refused by the decoder (R87). -/
theorem decodeCommand_error {h : Word} {payload : List Word} {e : DecodeError}
    (he : decodeCommand h payload = .error e) : e = .illegalCommand := by
  unfold decodeCommand at he
  repeat' split at he
  all_goals first | (injection he with he; exact he.symm) | cases he

/-- Every way a step answers a next state. -/
theorem step_cases {s t : State} (h : step s = .next t) :
    (s.hostQueue = [] ∧ t = s) ∨
    (∃ w rest, s.hostQueue = .commandWord w :: rest ∧ s.faulted = false ∧
      ((complete (s.cmdAsm ++ [w]) = false ∧ t = { s with hostQueue := rest, cmdAsm := s.cmdAsm ++ [w] }) ∨
        (complete (s.cmdAsm ++ [w]) = true ∧ ∃ header payload, s.cmdAsm ++ [w] = header :: payload ∧
          ((∃ i u, decodeCommand header payload = .ok i ∧
              exec i { s with hostQueue := rest, cmdAsm := header :: payload } = .next u ∧ t = { u with cmdAsm := [] }) ∨
            (decodeCommand header payload = .error .illegalCommand ∧
              t = ({ s with hostQueue := rest } : State).raiseFault .illegalCommand header))))) ∨
    (∃ tw rest, s.hostQueue = .teletextWord tw :: rest ∧
      ((∃ i, decodeT tw = .ok i ∧ exec i { s with hostQueue := rest } = .next t) ∨
        (∃ e, decodeT tw = .error e ∧ t = ({ s with hostQueue := rest } : State).driveTeletext tw 0#16 true))) ∨
    (∃ offset rest, s.hostQueue = .registerRead offset 32 :: rest ∧ offset.toNat % 4 = 0 ∧
      t = { s with hostQueue := rest, readLog := s.readLog ++ [(offset, s.registerAt offset)] }) ∨
    (∃ rest, s.hostQueue = .assertReset :: rest ∧ t = ({ s with hostQueue := rest } : State).resetEngine) := by
  unfold step State.advance at h
  split at h
  · rename_i hq
    injection h with h
    exact .inl ⟨hq, h.symm⟩
  rename_i a rest hq
  cases a with
  | commandWord w =>
    refine .inr (.inl ⟨w, rest, hq, ?_⟩)
    simp only [State.perform, State.takeCommandWord] at h
    split at h
    · cases h
    rename_i hf
    refine ⟨by simpa using hf, ?_⟩
    split at h
    · rename_i hc
      refine .inr ⟨hc, ?_⟩
      obtain ⟨header, payload, hw⟩ : ∃ header payload, s.cmdAsm ++ [w] = header :: payload := by
        cases hcm : s.cmdAsm with
        | nil => exact ⟨w, [], rfl⟩
        | cons x xs => exact ⟨x, xs ++ [w], rfl⟩
      refine ⟨header, payload, hw, ?_⟩
      simp only [State.executeCommand, hw] at h
      cases hd : decodeCommand header payload with
      | ok i =>
        obtain ⟨u, hu⟩ := exec_answers_next i { s with hostQueue := rest, cmdAsm := header :: payload }
        simp only [hd, hu, afterCommand] at h
        injection h with h
        exact .inl ⟨i, u, rfl, hu, h.symm⟩
      | error e =>
        obtain rfl := decodeCommand_error hd
        simp only [hd, afterCommand] at h
        injection h with h
        exact .inr ⟨rfl, h.symm⟩
    · rename_i hc
      injection h with h
      exact .inl ⟨by simpa using hc, h.symm⟩
  | teletextWord tw =>
    refine .inr (.inr (.inl ⟨tw, rest, hq, ?_⟩))
    simp only [State.perform, State.presentTeletext] at h
    split at h
    · exact .inl ⟨_, ‹_›, h⟩
    · injection h with h
      exact .inr ⟨_, ‹_›, h.symm⟩
  | registerRead offset bits =>
    simp only [State.perform, State.readRegister] at h
    split at h
    · cases h
    rename_i hb
    split at h
    · cases h
    rename_i ho
    injection h with h
    obtain rfl : bits = 32 := by simpa using hb
    exact .inr (.inr (.inr (.inl ⟨offset, rest, hq, by simpa using ho, h.symm⟩)))
  | registerWrite offset bits value => cases h
  | assertReset =>
    injection h with h
    exact .inr (.inr (.inr (.inr ⟨rest, hq, h.symm⟩)))

end Sys2Proof.Machine
end

