-- ==== Sys2Proof/Tests/Slice0.lean ====
section
/-! SUPPORT. Tests: expected values are those of 95_test_vectors.md (the vector's name stands in each docstring) or of the
encoding rules, worked by hand. Then a witness for the hypotheses of each statement that has any. -/

namespace Sys2Proof.Tests

set_option Elab.async false

open Sys2Proof Sys2Proof.Machine Sys2Proof.Spec

/-! ## Small states -/

/-- The state of a next outcome. -/
def after : Host.Outcome State Fault Refusal → Option State
  | .next s => some s
  | .fault _ => none
  | .refused _ => none

/-- Configured with n pixels a line, nothing sent since. -/
def at' (n : BitVec 16) : State := State.reset.latchProfile n

/-- The same with the registers of BINARY64 mode. -/
def at64 (n : BitVec 16) : State :=
  { State.reset with config := { Config.default with numericMode := .binary64 } }.latchProfile n

/-- The same with room for cap samples. -/
def withCap (cap : Word) (s : State) : State := { s with config := { s.config with bufCap := cap } }

/-- With these words about to be written to the command port. -/
def sending (ws : List Word) (s : State) : State := { s with hostQueue := ws.map .commandWord }

/-- With this action about to happen. -/
def doing (a : HostAction) (s : State) : State := { s with hostQueue := [a] }

/-- A halted engine (FT-1). -/
def halted : State := State.reset.raiseFault .notConfigured 0x11000000#32

/-- A buffer as runs of codes. -/
def runs (l : List (Nat × Nat)) : List Code := l.flatMap fun r => List.replicate r.1 (BitVec.ofNat 12 r.2)

/-- What the samples and the count are after an instruction. -/
def samplesAfter (i : Instr) (s : State) : Option (List Code × Nat) :=
  (after (exec i s)).map fun t => (t.sampleBuf, t.sampleCount.toNat)

/-- STATUS, FAULT_CODE, FAULT_INFO, PPL, SAMPLE_COUNT, as the host reads them. -/
def readout (s : State) : List Word :=
  [s.registerAt 0x00#8, s.registerAt 0x04#8, s.registerAt 0x08#8, s.registerAt 0x0C#8, s.registerAt 0x30#8]

/-- The readout after one step. -/
def stepReadout (s : State) : Option (List Word) := (after (step s)).map readout

/-- The teletext outputs after one step. -/
def stepTeletext (t : TtWord) : Option (TtWord × Bool) :=
  (after (step (doing (.teletextWord t) State.reset))).map fun u => (u.ttOut, u.ttErr)

/-! ## WellFormed -/

/-- R79: LEN = 5 asks for two payload words; one, or three, is refused. -/
theorem test_wellFormed_refuses_missing_payload : ¬ (Instr.emitActive 5#16 [0#32]).WellFormed := by decide
theorem test_wellFormed_refuses_extra_payload : ¬ (Instr.emitActive 5#16 [0#32, 0#32, 0#32]).WellFormed := by decide
theorem test_wellFormed_refuses_payload_of_no_pixels : ¬ (Instr.emitActive 0#16 [0#32]).WellFormed := by decide
theorem test_wellFormed_accepts : (Instr.emitActive 5#16 [0#32, 0#32]).WellFormed ∧ Instr.nop.WellFormed := by decide

/-! ## Decoding: words written out from the fields of R71-R75 and R82-R83 -/

theorem test_decode_nop : decode (.command [0b00000000000000000000000000000000#32]) = .ok .nop := rfl
theorem test_decode_configure :
    decode (.command [0b00000001000000000000000011010000#32]) = .ok (.configure 208#16) := rfl
theorem test_decode_emitBroad : decode (.command [0b00010000000001010000000000000000#32]) = .ok (.emitBroad 5#6) := rfl
theorem test_decode_emitShort : decode (.command [0b00010000010001010000000000000000#32]) = .ok (.emitShort 5#6) := rfl
theorem test_decode_emitPulse :
    decode (.command [0b00010000101111110000000000011001#32]) = .ok (.emitPulse 63#6 25#16) := rfl
theorem test_decode_emitBlank : decode (.command [0b00010001000000000000000000000000#32]) = .ok .emitBlank := rfl
theorem test_decode_emitSynced : decode (.command [0b00010010000000000000000000000000#32]) = .ok .emitSynced := rfl
theorem test_decode_emitActive :
    decode (.command [0b00010011000000000000000000000010#32, 0x000000FF#32]) =
      .ok (.emitActive 2#16 [0x000000FF#32]) := rfl
theorem test_decode_bufHandoff : decode (.command [0b00110000000000000000000000000000#32]) = .ok .bufHandoff := rfl
theorem test_decode_ttNone : decode (.teletext 0b0000000000000000#16) = .ok .ttNone := rfl
theorem test_decode_ttParity : decode (.teletext 0b0001000011000001#16) = .ok (.ttParity 0xC1#8) := rfl
theorem test_decode_ttHamming : decode (.teletext 0b0010000000000101#16) = .ok (.ttHamming 5#4) := rfl
theorem test_decode_ttPktaddr : decode (.teletext 0b0011000010111001#16) = .ok (.ttPktaddr 1#3 23#5) := rfl

/-- DV-2, DV-5, DV-10, DV-11, DV-12, DV-20, DV-22: no row, no payload. -/
theorem test_decode_illegal_headers :
    decodeCommand 0x00000001#32 [] = .error .illegalCommand ∧
    decodeCommand 0x01010000#32 [] = .error .illegalCommand ∧
    decodeCommand 0x10C00000#32 [] = .error .illegalCommand ∧
    decodeCommand 0x10050001#32 [] = .error .illegalCommand ∧
    decodeCommand 0x10400001#32 [] = .error .illegalCommand ∧
    decodeCommand 0x11000001#32 [] = .error .illegalCommand ∧
    decodeCommand 0x13010028#32 [] = .error .illegalCommand ∧
    decodeCommand 0x02000000#32 [] = .error .illegalCommand ∧
    decodeCommand 0xFF000000#32 [] = .error .illegalCommand ∧
    commandLength 0x13010028#32 = 1 :=
  ⟨rfl, rfl, rfl, rfl, rfl, rfl, rfl, rfl, rfl, rfl⟩

/-- DV-16 to DV-19. -/
theorem test_commandLength :
    [0x130000D0#32, 0x13000027#32, 0x13000000#32, 0x1300FFFF#32].map commandLength = [53, 11, 1, 16385] := by decide

theorem test_decodeTableWord :
    decodeTableWord 32 0x10810012 = some (.emitPulse 1#6 18#16) ∧ decodeTableWord 16 0x3011 = some (.ttPktaddr 1#3 2#5) ∧
      decodeTableWord 16 0x4000 = none ∧ decodeTableWord 32 0x10C00000 = none := by decide

/-! ## The instructions, one step each -/

/-- CT-1 -/
theorem test_nop : stepReadout (sending [0x00000000#32] State.reset) = some [0, 0, 0, 0, 0] := by decide +kernel

/-- W1, RG-1 -/
theorem test_configure_208 :
    (after (step (sending [0x010000D0#32] State.reset))).map
        (fun t => (List.range 14).map fun k => t.registerAt (BitVec.ofNat 8 (4 * k))) =
      some [0x1, 0, 0, 0xD0, 0x6, 0x12, 0x16, 0xFE, 0x9, 0x6D, 0x003C8EEE, 0x003D1809, 0, 0] := by decide +kernel

/-- TM-18: the back porch and what follows from it differ in BINARY64. -/
theorem test_configure_1039_binary64 :
    ((at64 1039#16).profile.backPorch, (at64 1039#16).halfLine, (at64 1039#16).profile.sampleFreqHz) =
      (113, 639, 19984375) ∧ (at' 1039#16).profile.backPorch = 114 := by decide +kernel

/-- WB-1 -/
theorem test_emitBroad_5 : samplesAfter (.emitBroad 5#6) (at' 208#16) =
    some (runs [(109, 0), (18, 765), (109, 0), (18, 765), (109, 0), (18, 765), (109, 0), (18, 765), (109, 0), (18, 765)],
      635) := by decide +kernel

/-- WB-10 -/
theorem test_emitBroad_1 : samplesAfter (.emitBroad 1#6) (at' 40#16) = some (runs [(21, 0), (3, 765)], 24) := by
  decide +kernel

/-- WB-11 -/
theorem test_emitShort_2 : samplesAfter (.emitShort 2#6) (at' 40#16) =
    some (runs [(1, 0), (23, 765), (1, 0), (23, 765)], 48) := by decide +kernel

/-- WB-13 -/
theorem test_emitShort_no_sync : samplesAfter (.emitShort 1#6) (at' 17#16) = some (runs [(9, 765)], 9) := by
  decide +kernel

/-- WB-4 -/
theorem test_emitPulse : samplesAfter (.emitPulse 1#6 18#16) (at' 208#16) = some (runs [(18, 0), (109, 765)], 127) := by
  decide +kernel

/-- FT-7: checked even when REPS = 0. -/
theorem test_emitPulse_underflow : stepReadout (sending [0x10800080#32] (at' 208#16)) =
    some [0x3, 6, 0x10800080, 0xD0, 0] := by decide +kernel

/-- WB-14; WB-22 in BINARY64. -/
theorem test_emitBlank : samplesAfter .emitBlank (at' 17#16) = some (runs [(9, 765)], 9) := by decide +kernel
theorem test_emitBlank_binary64 : samplesAfter .emitBlank (at64 1039#16) = some (runs [(639, 765)], 639) := by
  decide +kernel

/-- WB-12, WB-8 -/
theorem test_emitSynced : samplesAfter .emitSynced (at' 40#16) = some (runs [(3, 0), (21, 765)], 24) := by decide +kernel
theorem test_emitSynced_208 : samplesAfter .emitSynced (at' 208#16) = some (runs [(18, 0), (109, 765)], 127) := by
  decide +kernel

/-- WB-15, WB-21: bytes in order from the low end, padding ignored. -/
theorem test_emitActive :
    samplesAfter (.emitActive 17#16 [0x03020100#32, 0x07060504#32, 0x0B0A0908#32, 0x0F0E0D0C#32, 0xFFFFFF10#32])
        (at' 17#16) =
      some (runs [(1, 0), (2, 765), (1, 772), (1, 779), (1, 786), (1, 793), (1, 800), (1, 807), (1, 814), (1, 821),
        (1, 828), (1, 835), (1, 842), (1, 849), (1, 856), (1, 863), (1, 870), (1, 877)], 19) := by decide +kernel

/-- FT-9: raised at the tenth payload word, not before. -/
theorem test_emitActive_malformed :
    stepReadout (sending [7#32] { at' 40#16 with cmdAsm := 0x13000027#32 :: List.replicate 9 0#32 }) =
      some [0x3, 2, 0x13000027, 0x28, 0] ∧
    stepReadout (sending [7#32] { at' 40#16 with cmdAsm := 0x13000027#32 :: List.replicate 8 0#32 }) =
      some [0x1, 0, 0, 0x28, 0] := by decide +kernel

/-- CT-2, CT-3 -/
theorem test_bufHandoff_empty :
    (after (step (sending [0x30000000#32] State.reset))).map (fun t => (t.history, readout t)) =
      some ([.handoff []], [0, 0, 0, 0, 0]) := by decide +kernel
theorem test_bufHandoff :
    (after (exec .bufHandoff ((at' 208#16).append codeBlank 127))).map (fun t => (t.history, t.sampleBuf, t.sampleCount)) =
      some ([.handoff (runs [(127, 765)])], [], 0) := by decide +kernel

/-- 44_teletext.md's table of parity values: 0x00 has the even number 0 of 1 bits below bit 7. -/
theorem test_ttNone : stepTeletext 0x0000#16 = some (0x0000, false) := by decide +kernel
theorem test_ttParity : [0x1000#16, 0x1001#16, 0x1080#16, 0x10FF#16].map stepTeletext =
    [some (1, false), some (0, false), some (1, false), some (0, false)] := by decide +kernel
/-- TT-H-1, the whole codebook of R194. -/
theorem test_ttHamming : (List.range 16).map (fun k => stepTeletext (BitVec.ofNat 16 (0x2000 + k))) =
    [0x15#16, 0x02, 0x89, 0x9E, 0xA4, 0xB3, 0x38, 0x2F, 0xD0, 0xC7, 0x4C, 0x5B, 0x61, 0x76, 0xFD, 0xEA].map
      (fun b => some (b, false)) := by decide +kernel
/-- W5 with the formula's values (C1), TT-PA-2. -/
theorem test_ttPktaddr : [0x3000#16, 0x3011#16].map stepTeletext = [some (0x1515, false), some (0x0202, false)] := by
  decide +kernel
/-- R197 -/
theorem test_ttIllegal : [0x0001#16, 0x1100#16, 0x2010#16, 0x4000#16, 0xFFFF#16].map stepTeletext =
    List.replicate 5 (some (0x0000, true)) := by decide +kernel

/-! ## Faults, reset, registers -/

/-- FT-1, FT-2, FT-4, FT-10 -/
theorem test_faults_from_reset :
    [0x11000000#32, 0x01000000#32, 0x01010000#32, 0xFF000000#32].map (fun w => stepReadout (sending [w] State.reset)) =
      [some [0x2, 4, 0x11000000, 0, 0], some [0x2, 1, 0x01000000, 0, 0], some [0x2, 3, 0x01010000, 0, 0],
        some [0x2, 3, 0xFF000000, 0, 0]] := by decide +kernel

/-- FT-3 -/
theorem test_reconfigure : stepReadout (sending [0x010000D0#32] (at' 208#16)) =
    some [0x3, 5, 0x010000D0, 0xD0, 0] := by decide +kernel

/-- FT-12: 96 + 24 > 100. -/
theorem test_overflow :
    stepReadout (sending [0x11000000#32] (withCap 100#32 ((at' 40#16).append codeSync 96))) =
      some [0x3, 7, 0x11000000, 0x28, 96] := by decide +kernel

/-- FT-11: the word after the fault is not accepted. -/
theorem test_halted : step (sending [0x11000000#32] halted) = .fault .commandPortHalted := rfl

/-- R270, R273: every register reads 0, and the history keeps the fault. -/
theorem test_reset : (after (step (doing .assertReset halted))).map (fun t => (readout t, t.history)) =
    some ([0, 0, 0, 0, 0], [.fault .notConfigured 0x11000000#32]) := by decide +kernel

/-- RG-2, RG-1 -/
theorem test_register_refusals :
    step (doing (.registerRead 0x02#8 32) State.reset) = .refused .misalignedRegisterRead ∧
    step (doing (.registerRead 0x04#8 16) State.reset) = .refused .registerReadWidth ∧
    step (doing (.registerWrite 0x00#8 32 1) State.reset) = .refused .registerWrite := ⟨rfl, rfl, rfl⟩
theorem test_register_read : (after (step (doing (.registerRead 0x1C#8 32) (at' 208#16)))).map (·.readLog) =
    some [(0x1C#8, 0xFE#32)] := by decide +kernel

/-- withFetchWord brings the word to its port: the next step runs it (R79: an EMIT_ACTIVE with zero payload words). -/
theorem test_withFetchWord :
    stepReadout (State.reset.withFetchWord 32 0x130000D0) = some [0x2, 4, 0x130000D0, 0, 0] ∧
    (after (step (State.reset.withFetchWord 16 0x2005))).map (·.ttOut) = some 0xB3#16 := by decide +kernel

/-! ## The assembler (R85, R86) -/

/-- The text of a line; the braces by their numbers. -/
def braces (before inside : String) : List Char := before.toList ++ [Char.ofNat 123] ++ inside.toList ++ [Char.ofNat 125]

theorem test_assemble :
    Asm.assembleText [] "CONFIGURE 208 ; one line".toList = some [.configure 208#16] ∧
    Asm.assembleText [] "EMIT_BROAD".toList = some [.emitBroad 5#6] ∧
    Asm.assembleText [] "EMIT_PULSE 0x12, 1".toList = some [.emitPulse 1#6 18#16] ∧
    Asm.assembleText [] (braces "EMIT_ACTIVE 2, " "255, 0") = some [.emitActive 2#16 [0x000000FF#32]] := by decide

/-- R85: an operand out of range, or a row of another length, is rejected and never masked. -/
theorem test_assemble_rejects :
    Asm.assembleText [] "EMIT_SHORT 64".toList = none ∧ Asm.assembleText [] "CONFIGURE 65536".toList = none ∧
    Asm.assembleText [] (braces "EMIT_ACTIVE 3, " "255, 0") = none ∧ Asm.assembleText [] "TT.HAMMING 16".toList = none := by
  decide

/-- R171, R172: 609 rows, and every command of a frame. -/
theorem test_frame_rows : field1Rows.length + field2Rows.length = 609 ∧
    field1Rows.getLast? = some 608 ∧ field2Rows.getLast? = some 607 := by decide +kernel

/-- A host without a row (log 13), and a row whose length does not fit LEN (R85, R176). -/
theorem test_missing_row : composeFrame [] = none ∧ rowOf [[1#8]] 1 = none := by decide +kernel
theorem test_row_too_long : rowCommand (List.replicate 65536 0#8) = none := by
  rw [rowCommand, if_neg (by rw [List.length_replicate]; decide)]

/-- R281: register reads and a reset still to come are no words to send. -/
theorem test_run_ends :
    (doing (.registerRead 0x30#8 32) (at' 208#16)).endedSuccessfully = true ∧
    (doing .assertReset { at' 5#16 with cmdAsm := [0x13000005#32] }).stuckWaiting = true ∧
    (sending [0#32] (at' 208#16)).endedSuccessfully = false := by decide +kernel

/-! ## Witnesses: for each statement, inputs that meet the hypotheses of each of its clauses -/

theorem profileInv_1 : (at' 1#16).ProfileInv := by
  unfold State.ProfileInv
  decide +kernel
theorem profileInv_11 : (at' 11#16).ProfileInv := by
  unfold State.ProfileInv
  decide +kernel
theorem profileInv_22 : (at' 22#16).ProfileInv := by
  unfold State.ProfileInv
  decide +kernel
theorem profileInv_208 : (at' 208#16).ProfileInv := by
  unfold State.ProfileInv
  decide +kernel
theorem profileInv_65535 : (at' 65535#16).ProfileInv := by
  unfold State.ProfileInv
  decide +kernel

theorem profileInv_at64 : (at64 1039#16).ProfileInv ∧ (at64 1039#16).configured = true := by
  unfold State.ProfileInv
  decide +kernel

theorem inv_at' (n : BitVec 16) (h : (at' n).ProfileInv) : (at' n).Inv where
  profile := h
  buffer := by
    refine ⟨rfl, Nat.zero_le _, ?_⟩
    intro c hc
    exact absurd hc List.not_mem_nil
  fault := ⟨⟨fun _ => rfl, fun _ => rfl⟩, fun _ => rfl⟩
  assembly := ⟨fun _ _ h => (nomatch (h : [] = _ :: _)), fun h => nomatch (h : false = true)⟩
  teletext := (by decide : (0#16, false) = ttOutputs 0#16)

/-- A state the invariant holds of, which has samples in its buffer and no room for more. -/
def full : State := withCap 96#32 ((at' 40#16).append codeSync 96)

theorem inv_full : full.Inv where
  profile := by
    unfold State.ProfileInv
    decide +kernel
  buffer := by
    refine ⟨by decide +kernel, by decide +kernel, fun c hc => ?_⟩
    obtain rfl : c = codeSync := List.eq_of_mem_replicate (show c ∈ List.replicate 96 codeSync from hc)
    decide
  fault := ⟨⟨fun _ => rfl, fun _ => rfl⟩, fun _ => rfl⟩
  assembly := ⟨fun _ _ h => (nomatch (h : [] = _ :: _)), fun h => nomatch (h : false = true)⟩
  teletext := (by decide : (0#16, false) = ttOutputs 0#16)

/-- In the middle of an EMIT_ACTIVE of two payload words. -/
def midRow : State := { at' 5#16 with cmdAsm := [0x13000005#32] }

theorem witness_decodeEncodeRoundTrip :
    (Instr.emitActive 0#16 []).WellFormed ∧ (Instr.emitActive 65535#16 (List.replicate 16384 1#32)).WellFormed ∧
      (Instr.ttPktaddr 7#3 31#5).WellFormed := by decide +kernel

theorem witness_encodeDecodeGivesTheWords :
    decode (.command [0x13000001#32, 0xFFFFFF09#32]) = .ok (.emitActive 1#16 [0xFFFFFF09#32]) ∧
      decode (.teletext 0x30FF#16) = .ok (.ttPktaddr 7#3 31#5) := ⟨rfl, rfl⟩

theorem witness_headerSelectsByMaskAndMatch :
    (∀ r ∈ rowsV, r.val &&& r.mask = r.val) ∧ decodeCommand 0x10BF0019#32 [] = .ok (.emitPulse 63#6 25#16) ∧
      decodeCommand 0x1300FFFF#32 [1#32] = .ok (.emitActive 65535#16 [1#32]) := ⟨by decide, rfl, rfl⟩

theorem witness_illegalHeaderFaultsAtOnce :
    NextWord (sending [0x13010028#32] State.reset) 0x13010028#32 [] ∧ State.reset.faulted = false ∧
      State.reset.cmdAsm = [] ∧ ∀ r ∈ rowsV, ¬ 0x13010028#32 &&& r.mask = r.val := ⟨rfl, rfl, rfl, by decide⟩

theorem witness_commandLengthIsFixedByHeader :
    decodeCommand 0x1300FFFF#32 [] = .ok (.emitActive 65535#16 []) ∧
    (∀ len p, decodeCommand 0x30000000#32 [] ≠ .ok (.emitActive len p)) ∧
    NextWord (sending [1#32] midRow) 1#32 [] ∧ midRow.cmdAsm ++ [1#32] = 0x13000005#32 :: [1#32] ∧
    midRow.faulted = false ∧ (0x13000005#32 :: [1#32]).length ≠ commandLength 0x13000005#32 := by
  refine ⟨rfl, fun len p h => ?_, rfl, rfl, rfl, by decide⟩
  injection h with h
  injection h

theorem witness_teletextWordSelectsByMaskAndMatch :
    (∀ r ∈ rowsT, r.val &&& r.mask = r.val) ∧ decodeT 0x10FF#16 = .ok (.ttParity 0xFF#8) ∧
    decodeT 0x200F#16 = .ok (.ttHamming 15#4) ∧ decodeT 0x30FF#16 = .ok (.ttPktaddr 7#3 31#5) ∧
    (doing (.teletextWord 0x4000#16) State.reset).hostQueue = [.teletextWord 0x4000#16] ∧
    ∀ r ∈ rowsT, ¬ 0x4000#16 &&& r.mask = r.val := ⟨by decide, rfl, rfl, rfl, rfl, by decide⟩

/-- Pixels that fit, LEN one too high for its field, one pixel too few, a pixel one too high; a row of the greatest
length, a row one byte longer, a row that is not there; an image with every row, and one without the last that FRAME
reads. -/
theorem witness_assemblerRejectsWhatDoesNotFit :
    (2 < 2 ^ 16 ∧ [255, 0].length = 2 ∧ ∀ p ∈ [255, 0], p < 256) ∧ 2 ^ 16 ≤ 65536 ∧ [1].length ≠ 2 ∧
    (∃ p ∈ [256], 256 ≤ p) ∧
    (∃ row : List Byte, ([row] : SourceImage)[0]? = some row ∧ row.length < 2 ^ 16 ∧ row.length = 65535) ∧
    (∃ row : List Byte, ([row] : SourceImage)[0]? = some row ∧ 2 ^ 16 ≤ row.length ∧ row.length = 65536) ∧
    ([] : SourceImage)[0]? = none ∧
    (∀ r ≤ 608, Asm.assemble (List.replicate 609 []) (.row r) = some [(fun _ => .emitActive 0#16 []) r]) ∧
    (608 ≤ 608 ∧ Asm.assemble (List.replicate 608 []) (.row 608) = none) := by
  have rows (n r : Nat) (hr : r < n) : Asm.assemble (List.replicate n []) (.row r) = some [.emitActive 0#16 []] := by
    simp [Asm.assemble, rowOf, rowCommand, packBytes, hr]
  have missing (n : Nat) : Asm.assemble (List.replicate n []) (.row n) = none := by
    simp [Asm.assemble, rowOf]
  refine ⟨by decide, by decide, by decide, by decide, ⟨List.replicate 65535 0#8, rfl, ?_, ?_⟩,
    ⟨List.replicate 65536 0#8, rfl, ?_, ?_⟩, rfl, fun r hr => rows 609 r (Nat.lt_succ_of_le hr), Nat.le_refl _, missing 608⟩ <;>
    rw [List.length_replicate] <;> decide

/-- One word, and the last word of several. -/
theorem witness_stepRunsTheDecodedCommand :
    (NextWord (sending [0x010000D0#32] State.reset) 0x010000D0#32 [] ∧ State.reset.faulted = false ∧
      decode (.command (State.reset.cmdAsm ++ [0x010000D0#32])) = .ok (.configure 208#16)) ∧
    decode (.command ({ midRow with cmdAsm := [0x13000005#32, 1#32] }.cmdAsm ++ [2#32])) =
      .ok (.emitActive 5#16 [1#32, 2#32]) := ⟨⟨rfl, rfl, rfl⟩, rfl⟩

theorem witness_stepRunsTheTeletextWord :
    (doing (.teletextWord 0x2005#16) halted).hostQueue = [.teletextWord 0x2005#16] ∧
      decodeT 0x2005#16 = .ok (.ttHamming 5#4) := ⟨rfl, rfl⟩

theorem witness_fetchedTableWordRuns :
    State.reset.faulted = false ∧ decodeTableWord 32 0x13000002 = some (.emitActive 2#16 [0#32]) ∧
      decodeTableWord 16 0x30FF = some (.ttPktaddr 7#3 31#5) := by decide

theorem witness_idleStepChangesNothing : (at' 208#16).hostQueue = [] := rfl

theorem witness_partialCommandIsInvisible :
    NextWord (sending [1#32] midRow) 1#32 [] ∧ ∃ t, step (sending [1#32] midRow) = .next t ∧ t.cmdAsm ≠ [] :=
  ⟨rfl, _, rfl, by decide +kernel⟩

/-- Each clause: the encoding, its reserved bits, RECONFIGURE, CONFIG_ERROR at 0, success at 1 and at 65535. -/
theorem witness_configureLatchesTheProfile :
    0x0100FFFF#32 &&& 0xFFFF0000#32 = 0x01000000#32 ∧
    (0x01010000#32).toNat / 2 ^ 24 = 1 ∧ (0x01010000#32).toNat / 2 ^ 16 % 2 ^ 8 ≠ 0 ∧
    (at' 208#16).configured = true ∧ State.reset.configured = false ∧ 1#16 ≠ 0#16 ∧ 65535#16 ≠ 0#16 := by decide +kernel

theorem witness_numericModesDifferAtElevenValues :
    1038 ∉ binary64Exceptions ∧ 65535 ∉ binary64Exceptions ∧ 1039 ∈ binary64Exceptions ∧ 65457 ∈ binary64Exceptions := by
  decide

theorem witness_profileValuesAreBounded : (1 ≤ 1 ∧ 1 ≤ 65535) ∧ (1 ≤ 65535 ∧ 65535 ≤ 65535) ∧ 546 ∈ [33, 94, 114, 47, 546] := by
  decide

theorem witness_segmentCountsAreNonNegative :
    (∃ t, exec (.emitPulse 0#6 1#16) (at' 1#16) = .next t ∧ t.faultCode = .segmentUnderflow) ∧ ∃ t, exec .emitSynced (at' 1#16) = .next t ∧ (∀ reps pw, Instr.emitSynced ≠ .emitPulse reps pw) ∧
      (at' 1#16).faultCode ≠ .segmentUnderflow := ⟨⟨_, rfl, by decide +kernel⟩, _, rfl, fun _ _ h => (nomatch h), by decide⟩

theorem witness_pixelFrequencyIsHeldTruncated :
    State.reset.configured = false ∧ ((at' 1#16).ProfileInv ∧ (at' 1#16).config.numericMode = .exact) ∧
      (at64 1039#16).ProfileInv ∧ (at64 1039#16).config.numericMode = .binary64 :=
  ⟨rfl, ⟨profileInv_1, rfl⟩, profileInv_at64.1, rfl⟩

theorem witness_profileIsImmutable :
    ∃ t, (at' 40#16).configured = true ∧ (sending [0x010000D0#32] (at' 40#16)).hostQueue.head? ≠ some .assertReset ∧
      step (sending [0x010000D0#32] (at' 40#16)) = .next t := ⟨_, rfl, by decide, rfl⟩

/-- The encodings of the EMIT commands and the words next to them. -/
theorem witness_emitEncodings :
    0x103F0000#32 &&& 0xFFC0FFFF#32 = 0x10000000#32 ∧
    (0x10050001#32).toNat / 2 ^ 22 = 0x40 ∧ (0x10050001#32).toNat % 2 ^ 16 ≠ 0 ∧
    0x107F0000#32 &&& 0xFFC0FFFF#32 = 0x10400000#32 ∧
    (0x10400001#32).toNat / 2 ^ 22 = 0x41 ∧ (0x10400001#32).toNat % 2 ^ 16 ≠ 0 ∧
    0x10BFFFFF#32 &&& 0xFFC00000#32 = 0x10800000#32 ∧ (0x10C00000#32).toNat / 2 ^ 22 = 0x43 ∧
    (0x11000001#32).toNat / 2 ^ 24 = 0x11 ∧ (0x11000001#32).toNat % 2 ^ 24 ≠ 0 ∧
    (0x12FFFFFF#32).toNat / 2 ^ 24 = 0x12 ∧ (0x12FFFFFF#32).toNat % 2 ^ 24 ≠ 0 ∧
    0x1300FFFF#32 &&& 0xFFFF0000#32 = 0x13000000#32 ∧
    (0x13010028#32).toNat / 2 ^ 24 = 0x13 ∧ (0x13010028#32).toNat / 2 ^ 16 % 2 ^ 8 ≠ 0 := by decide

/-- The common clauses of the EMIT statements: unconfigured; no room for one half-line or scanline more; exactly no room
needed; room for the examples. -/
theorem witness_emitClauses :
    State.reset.configured = false ∧ full.configured = true ∧ full.ProfileInv ∧ Fits full 0 ∧
    ¬ Fits full (1 * (full.scanlineSamples.toNat / 2)) ∧ ¬ Fits full full.scanlineSamples.toNat ∧
    Fits (withCap 120#32 full) (1 * (full.scanlineSamples.toNat / 2)) ∧
    Fits (at' 208#16) 635 ∧ Fits (at' 208#16) 254 ∧ Fits (at' 1#16) 1 ∧ Fits (at' 2#16) 63 ∧
    Fits (at' 17#16) ((at' 17#16).scanlineSamples.toNat / 2) := by
  refine ⟨rfl, rfl, inv_full.profile, ?_⟩
  unfold Fits
  decide +kernel

theorem witness_emitBroadAppendsBroadPulses :
    (at' 1#16).ppl = 1#16 ∧ (at' 2#16).ppl = 2#16 ∧ (at' 208#16).ppl = 208#16 ∧ (at' 208#16).ProfileInv :=
  ⟨rfl, rfl, rfl, profileInv_208⟩

theorem witness_emitShortAppendsShortPulses : (at' 22#16).ProfileInv ∧ (at' 22#16).ppl.toNat < 23 :=
  ⟨profileInv_22, by decide⟩

/-- PW just above the half-line, at it, and 0. -/
theorem witness_emitPulseAppendsItsWidth :
    (at' 208#16).scanlineSamples.toNat / 2 < (128#16).toNat ∧
      (127#16).toNat = (at' 208#16).scanlineSamples.toNat / 2 ∧ (0#16).toNat ≤ (at' 208#16).scanlineSamples.toNat / 2 ∧
      Fits (at' 208#16) (63 * (127#16).toNat) ∧ Fits (at' 208#16) 127 := by
  unfold Fits
  decide +kernel

theorem witness_emitBlankAppendsHalfLine : (at' 17#16).configured = true ∧ (at' 17#16).scanlineSamples.toNat = 2 * 9 + 1 := by
  decide +kernel

theorem witness_emitSyncedAppendsSyncedHalfLine : (at' 11#16).ProfileInv ∧ (at' 11#16).ppl.toNat < 12 :=
  ⟨profileInv_11, by decide⟩

/-- The row of the right length, and LEN one off; a payload word before the last, and the last. -/
theorem witness_emitActiveAppendsScanline :
    (208#16 = (at' 208#16).ppl ∧ (List.replicate 52 0xFFFFFFFF#32).length = ((208#16).toNat + 3) / 4) ∧
    207#16 ≠ (at' 208#16).ppl ∧
    (NextWord (sending [1#32] midRow) 1#32 [] ∧ midRow.cmdAsm = BitVec.ofNat 32 (0x13000000 + (5#16).toNat) :: [] ∧
      ([] : List Word).length + 1 < ((5#16).toNat + 3) / 4) ∧
    ([1#32] : List Word).length + 1 = ((5#16).toNat + 3) / 4 := by
  refine ⟨by decide +kernel, by decide +kernel, ⟨rfl, rfl, by decide⟩, by decide⟩

/-- Two payloads that differ in the padding alone. -/
theorem witness_payloadBytesAreLittleEndian :
    [0x00000009#32].length = ((1#16).toNat + 3) / 4 ∧ [0xFFFFFF09#32].length = [0x00000009#32].length ∧
    (∀ k, k < (1#16).toNat → pixelByte [0x00000009#32] k = pixelByte [0xFFFFFF09#32] k) ∧
    [0x00000009#32][0 / 4]? = some 0x00000009#32 := by
  refine ⟨rfl, rfl, fun k hk => ?_, rfl⟩
  obtain rfl : k = 0 := by simpa using hk
  decide

theorem witness_emitChangesBufferOrFaultState :
    IsEmit .emitBlank ∧ SameProfile (at' 40#16) full ∧
    ∃ t t', exec .emitBlank (at' 40#16) = .next t ∧ exec .emitBlank (withCap 200#32 full) = .next t' ∧
      t.faulted = false ∧ t'.faulted = false := by
  refine ⟨.inr (.inr (.inr (.inl rfl))), ⟨rfl, rfl⟩, _, _, rfl, rfl, ?_, ?_⟩ <;> decide +kernel

theorem witness_growthIsKnownAheadOfTime :
    ∃ t, full.Inv ∧ IsEmit (.emitBroad 0#6) ∧ (Instr.emitBroad 0#6).WellFormed ∧
      exec (.emitBroad 0#6) full = .next t ∧ t.faulted = false :=
  ⟨_, inv_full, .inl ⟨_, rfl⟩, by decide, rfl, by decide +kernel⟩

theorem witness_nopHasNoEffect :
    (0x00000001#32).toNat / 2 ^ 24 = 0 ∧ (0x00000001#32).toNat % 2 ^ 24 ≠ 0 ∧
    NextWord (sending [0#32] State.reset) 0x00000000#32 [] ∧ (sending [0#32] State.reset).cmdAsm = [] ∧
    (sending [0#32] State.reset).faulted = false ∧ (sending [0#32] halted).faulted = true :=
  ⟨by decide, by decide, rfl, rfl, rfl, rfl⟩

theorem witness_handoffTransfersTheBuffer :
    (0x30000001#32).toNat / 2 ^ 24 = 0x30 ∧ (0x30000001#32).toNat % 2 ^ 24 ≠ 0 ∧
    (at' 208#16).BufferInv ∧ (at' 208#16).ProfileInv ∧ (at' 208#16).ppl = 208#16 ∧ (at' 208#16).sampleBuf = [] ∧
    (at' 208#16).sampleCount = 0#32 ∧ ∃ t, exec .emitBlank (at' 208#16) = .next t :=
  have h := profileInv_208
  ⟨by decide, by decide, (inv_at' _ h).buffer, h, rfl, rfl, rfl, _, rfl⟩

/-- A step that appends, one that hands off, one that resets, one that faults. -/
theorem witness_steps :
    (∃ t, step (sending [0x11000000#32] (at' 208#16)) = .next t) ∧
    (∃ t, step (sending [0x30000000#32] full) = .next t) ∧ (∃ t, step (doing .assertReset full) = .next t) ∧
    ∃ t, step (sending [0x11000000#32] full) = .next t := ⟨⟨_, rfl⟩, ⟨_, rfl⟩, ⟨_, rfl⟩, ⟨_, rfl⟩⟩

/-- MALFORMED_ROW and SEGMENT_UNDERFLOW, each at the nearest wrong operand. -/
theorem witness_faultEntryIsPrecise :
    (∃ t, step (sending [7#32] { at' 4#16 with cmdAsm := [0x13000005#32, 0#32] }) = .next t ∧ t.faulted = true ∧
      t.faultCode = .malformedRow) ∧
    (∃ t, step (sending [0x10800080#32] (at' 208#16)) = .next t ∧ t.faulted = true ∧ t.faultCode = .segmentUnderflow) ∧
    NextWord (sending [7#32] { at' 4#16 with cmdAsm := [0x13000005#32, 0#32] }) 7#32 [] ∧
    ({ at' 4#16 with cmdAsm := [0x13000005#32, 0#32] }.cmdAsm ++ [7#32]) = 0x13000005#32 :: [0#32, 7#32] :=
  ⟨⟨_, rfl, by decide +kernel, by decide +kernel⟩, ⟨_, rfl, by decide +kernel, by decide +kernel⟩, rfl, rfl⟩

theorem witness_faultPriority :
    NextWord (sending [0x02000000#32] State.reset) 0x02000000#32 [] ∧ State.reset.faulted = false ∧
    State.reset.cmdAsm = [] ∧ decodeCommand 0x02000000#32 [] = .error .illegalCommand ∧
    IsEmit (.emitActive 39#16 []) ∧ IsEmit (.emitPulse 0#6 128#16) :=
  ⟨rfl, rfl, rfl, rfl, .inr (.inr (.inr (.inr (.inr ⟨_, _, rfl⟩)))), .inr (.inr (.inl ⟨_, _, rfl⟩))⟩

theorem witness_haltedEngineTakesNoWord :
    halted.faulted = true ∧ NextWord (sending [0#32] halted) 0#32 [] ∧ (0xFC#8).toNat % 4 = 0 ∧
    (doing (.registerRead 0xFC#8 32) halted).hostQueue = [.registerRead 0xFC#8 32] ∧
    (doing (.teletextWord 0x4000#16) halted).hostQueue = [.teletextWord 0x4000#16] := ⟨rfl, rfl, rfl, rfl, rfl⟩

theorem witness_onlyResetLeavesTheFault :
    (∃ t, halted.faulted = true ∧ step (doing (.registerRead 0x04#8 32) halted) = .next t ∧
      (doing (.registerRead 0x04#8 32) halted).hostQueue.head? ≠ some .assertReset) ∧
    (doing .assertReset halted).hostQueue = [.assertReset] := ⟨⟨_, rfl, rfl, by decide⟩, rfl⟩

/-- Every offset of the map is aligned, 0x34 and 0xFC are unmapped; and an access of each refused kind. -/
theorem witness_registerWindowFollowsTheMap :
    (doing (.registerRead 0x30#8 32) (at' 208#16)).hostQueue = [.registerRead 0x30#8 32] ∧
    (∀ k < 64, (BitVec.ofNat 8 (4 * k)).toNat % 4 = 0) ∧ 0x34 ≤ (0x34#8).toNat ∧ 0x34 ≤ (0xFC#8).toNat ∧
    (doing (.registerRead 0x01#8 32) State.reset).hostQueue = [.registerRead 0x01#8 32] ∧ (0x01#8).toNat % 4 ≠ 0 ∧
    (doing (.registerRead 0x00#8 64) State.reset).hostQueue = [.registerRead 0x00#8 64] ∧ 64 ≠ 32 ∧
    (doing (.registerWrite 0x00#8 32 0) State.reset).hostQueue = [.registerWrite 0x00#8 32 0] := by
  refine ⟨rfl, ?_, ?_, ?_, rfl, ?_, rfl, ?_, rfl⟩ <;> decide

theorem witness_statusFlagsAreSetAndCleared :
    (∃ t, step (sending [0x01000001#32] State.reset) = .next t ∧ State.reset.configured = false ∧ t.configured = true) ∧
    (∃ t, step (sending [0x01000000#32] State.reset) = .next t ∧ State.reset.faulted = false ∧ t.faulted = true) ∧
    (∃ t, step (doing .assertReset (at' 208#16)) = .next t ∧ (at' 208#16).configured = true ∧ t.configured = false) ∧
    ∃ t, step (doing .assertReset halted) = .next t ∧ halted.faulted = true ∧ t.faulted = false := by
  refine ⟨⟨_, rfl, rfl, ?_⟩, ⟨_, rfl, rfl, ?_⟩, ⟨_, rfl, rfl, rfl⟩, _, rfl, rfl, rfl⟩ <;> decide +kernel

/-- Reset in the middle of a command, with a header of a longer command, an illegal one, and one word after it. -/
theorem witness_resetRestoresEveryRegister :
    { midRow with hostQueue := [.assertReset, .commandWord 0x13000005#32] }.hostQueue =
      .assertReset :: .commandWord 0x13000005#32 :: [] ∧
    commandLength 0x13000005#32 ≠ 1 ∧ decodeCommand 0x13010028#32 [] = .error .illegalCommand :=
  ⟨rfl, by decide, rfl⟩

theorem witness_stepKeepsTheInvariant :
    (∃ t, (sending [0x30000000#32] full).Inv ∧ step (sending [0x30000000#32] full) = .next t) ∧
    ∃ n, (at' n).Inv ∧ (at' n).configured = true :=
  ⟨⟨_, ⟨inv_full.profile, inv_full.buffer, inv_full.fault, inv_full.assembly, inv_full.teletext⟩, rfl⟩,
    65535#16, inv_at' _ profileInv_65535, rfl⟩

theorem witness_scanlineSumAndCountHold : full.Inv ∧ full.configured = true := ⟨inv_full, rfl⟩

theorem witness_teletextNoneIsIdle : (0x0001#16).toNat / 2 ^ 12 = 0 ∧ (0x0001#16).toNat % 256 ≠ 0 := by decide

theorem witness_teletextParityIsEvenParity :
    (∃ t u, exec (.ttParity 0x7F#8) State.reset = .next t ∧ exec (.ttParity (0x7F#8 ^^^ 0x80#8)) State.reset = .next u) ∧
    0x10FF#16 &&& 0xFF00#16 = 0x1000#16 ∧ (0x1100#16).toNat / 2 ^ 8 % 16 ≠ 0 :=
  ⟨⟨_, _, rfl, rfl⟩, by decide, by decide⟩

theorem witness_teletextHammingIsTheCodebook :
    0x200F#16 &&& 0xFFF0#16 = 0x2000#16 ∧ (0x2010#16).toNat / 2 ^ 12 = 2 ∧ (0x2010#16).toNat / 16 % 16 ≠ 0 ∧
      (0x2100#16).toNat / 2 ^ 12 = 2 ∧ (0x2100#16).toNat / 2 ^ 8 % 16 ≠ 0 := by decide

theorem witness_teletextCodeCorrectsOneBit :
    ∃ t u, exec (.ttHamming 0#4) State.reset = .next t ∧ exec (.ttHamming 1#4) State.reset = .next u ∧ 0#4 ≠ 1#4 ∧
      0 < 8 ∧ 7 < 8 ∧ 0 ≠ 7 := ⟨_, _, rfl, rfl, by decide, by decide, by decide, by decide⟩

theorem witness_teletextPacketAddress :
    0x30FF#16 &&& 0xFF00#16 = 0x3000#16 ∧ (0x3800#16).toNat / 2 ^ 8 % 16 ≠ 0 := by decide

/-- Each way of being illegal: TOP, the reserved nibble, ARG of TT_HAMMING, ARG of TT_NONE. -/
theorem witness_illegalTeletextWordAnswersError :
    4 ≤ (0x4000#16).toNat / 2 ^ 12 ∧ (0x3800#16).toNat / 2 ^ 8 % 16 ≠ 0 ∧
    ((0x20F0#16).toNat / 2 ^ 12 = 2 ∧ (0x20F0#16).toNat / 16 % 16 ≠ 0) ∧
    ((0x0001#16).toNat / 2 ^ 12 = 0 ∧ (0x0001#16).toNat % 256 ≠ 0) ∧
    (doing (.teletextWord 0xF0FF#16) halted).hostQueue = [.teletextWord 0xF0FF#16] := by decide

theorem witness_teletextPortAndEngineAreIndependent :
    (doing (.teletextWord 0x2005#16) full).hostQueue = [.teletextWord 0x2005#16] ∧
    ∃ u, step (sending [0x30000000#32] full) = .next u ∧
      ∀ t, (sending [0x30000000#32] full).hostQueue.head? ≠ some (.teletextWord t) :=
  ⟨rfl, _, rfl, fun _ h => nomatch Option.some.inj h⟩

/-- An ended run, a stuck one, a faulted one, each with something other than a word still to come. -/
theorem witness_runEndsAsStated :
    ((∀ w, HostAction.commandWord w ∉ (doing (.registerRead 0x30#8 32) full).hostQueue) ∧ full.Inv ∧
      (doing (.registerRead 0x30#8 32) full).hostQueue.head? ≠ some .assertReset ∧
      ∃ t, step (doing (.registerRead 0x30#8 32) full) = .next t) ∧
    ((∀ w, HostAction.commandWord w ∉ (doing (.teletextWord 0x2005#16) midRow).hostQueue) ∧ midRow.cmdAsm ≠ [] ∧
      (doing (.teletextWord 0x2005#16) midRow).hostQueue.head? ≠ some .assertReset ∧
      ∃ t, step (doing (.teletextWord 0x2005#16) midRow) = .next t) ∧
    halted.endedFaulted = true ∧ (doing (.teletextWord 0x2005#16) halted).hostQueue.head? ≠ some .assertReset ∧
      ∃ t, step (doing (.teletextWord 0x2005#16) halted) = .next t :=
  ⟨⟨by simp [doing], inv_full, by decide, _, rfl⟩, ⟨by simp [doing], by decide, by decide, _, rfl⟩, rfl, by decide, _, rfl⟩

end Sys2Proof.Tests
end

section
/-! SUPPORT. Bounds on the timing profile in both modes: each count of the BINARY64 derivation is the exact one or one
less, so that every value fits its register (R114) and every segment fits the half-line (R117). -/

namespace Sys2Proof.Machine

open Sys2Proof Binary64

/-! ## Every truncated product, in either mode -/

/-- `a` is the truncated product `e` of R102-R109, or one less where the product can be an integer. -/
def AtMostOneBelow (n a e : Nat) : Prop := a ≤ e ∧ e ≤ a + 1 ∧ (n < 1039 → a = e)

theorem atMostOneBelow_refl (n e : Nat) : AtMostOneBelow n e e := ⟨le_rfl, by omega, fun _ => rfl⟩

/-- Where the exact product is an integer, the rounded one truncates to it or to the integer below (R113). -/
theorem trunc_product_of_dvd (c : Binary64) (k m : Nat) (hk1 : 1 ≤ k) (hk2 : k < 1039) (h1 : 1 ≤ m)
    (h2 : 1039 * m < 65536) (hc : |c.toRat - (k : ℚ) / 20000000| ≤ (k : ℚ) / 20000000 * (1 / 2 ^ 52)) :
    (c.mul (pixelFreq64 (1039 * m))).trunc ≤ k * m ∧ k * m ≤ (c.mul (pixelFreq64 (1039 * m))).trunc + 1 := by
  have hnear := product_near c k (1039 * m) hk1 (by omega) h2 hc
  have hquot : ((k * (1039 * m) : Nat) : ℚ) / 1039 = (k * m : Nat) := by push_cast; ring
  have hsmall : ((k * m : Nat) : ℚ) / 2 ^ 50 < 1 := by
    have hkm : k * m < 2 ^ 50 := (Nat.mul_lt_mul'' hk2 (by omega : m < 64)).trans (by norm_num)
    rw [div_lt_one (by norm_num)]
    exact_mod_cast hkm
  rw [hquot] at hnear
  obtain ⟨hlow, hhigh⟩ := abs_le.1 hnear
  rw [trunc_eq_floor]
  constructor
  · exact Nat.lt_succ_iff.1 (Nat.floor_lt' (by omega) |>.2 (by push_cast at *; linarith))
  · have hfloor := Nat.lt_floor_add_one (c.mul (pixelFreq64 (1039 * m))).toRat
    have : ((k * m : Nat) : ℚ) < (⌊(c.mul (pixelFreq64 (1039 * m))).toRat⌋₊ + 1 + 1 : Nat) := by
      push_cast at *
      linarith
    exact Nat.lt_succ_iff.1 (by exact_mod_cast this)

theorem trunc_product_atMostOneBelow (c : Binary64) (k n : Nat) (hk1 : 1 ≤ k) (hk2 : k < 1039) (h1 : 1 ≤ n)
    (h2 : n < 65536) (hc : |c.toRat - (k : ℚ) / 20000000| ≤ (k : ℚ) / 20000000 * (1 / 2 ^ 52)) :
    AtMostOneBelow n (c.mul (pixelFreq64 n)).trunc (k * n / 1039) := by
  by_cases hn : 1039 ∣ n
  · obtain ⟨m, rfl⟩ := hn
    obtain ⟨hle, hge⟩ := trunc_product_of_dvd c k m hk1 hk2 (by omega) h2 hc
    rw [Nat.mul_left_comm, Nat.mul_div_cancel_left _ (by norm_num)]
    exact ⟨hle, hge, fun _ => by omega⟩
  · rw [trunc_product c k n hk1 hk2 h1 h2 hn hc]
    exact atMostOneBelow_refl _ _

/-- The five counts that are truncated products, and their sum with n (R103-R109). -/
structure TimingProfile.CountsNearExact (n : Nat) (p : TimingProfile) : Prop where
  frontPorch : AtMostOneBelow n p.frontPorch (33 * n / 1039)
  hsyncPulse : AtMostOneBelow n p.hsyncPulse (94 * n / 1039)
  backPorch : AtMostOneBelow n p.backPorch (114 * n / 1039)
  halfShort : AtMostOneBelow n p.halfShort (47 * n / 1039)
  halfBroad : AtMostOneBelow n p.halfBroad (546 * n / 1039)
  sum : p.scanlineSamples = p.frontPorch + p.hsyncPulse + n + p.backPorch

theorem timingProfile_sum (mode : NumericMode) (n : Nat) :
    (timingProfile mode n).scanlineSamples = (timingProfile mode n).frontPorch + (timingProfile mode n).hsyncPulse + n +
      (timingProfile mode n).backPorch := by
  cases mode <;> rfl

theorem timingProfile_countsNearExact (mode : NumericMode) {n : Nat} (h1 : 1 ≤ n) (h2 : n < 65536) :
    (timingProfile mode n).CountsNearExact n := by
  cases mode with
  | exact =>
    exact ⟨atMostOneBelow_refl _ _, atMostOneBelow_refl _ _, atMostOneBelow_refl _ _, atMostOneBelow_refl _ _,
      atMostOneBelow_refl _ _, rfl⟩
  | binary64 =>
    have near (c : Binary64) (k : Nat) (hk1 : 1 ≤ k) (hk2 : k < 1039) :=
      trunc_product_atMostOneBelow c k n hk1 hk2 h1 h2
    exact
      { frontPorch := near _ 33 (by decide) (by decide) b64FrontPorch_near
        hsyncPulse := near _ 94 (by decide) (by decide) b64Hsync_near
        backPorch := near _ 114 (by decide) (by decide) b64BackPorch_near
        halfShort := near _ 47 (by decide) (by decide) b64ShortPulse_near
        halfBroad := near _ 546 (by decide) (by decide) b64Broad_near
        sum := rfl }

/-! ## The segments fit the half-line (R117) -/

theorem AtMostOneBelow.le {n a e : Nat} (h : AtMostOneBelow n a e) : a ≤ e := h.1

section
variable {n : Nat} {p : TimingProfile} (hp : p.CountsNearExact n)
include hp

theorem TimingProfile.CountsNearExact.halfBroad_le : p.halfBroad ≤ p.scanlineSamples / 2 := by
  obtain ⟨⟨-, hfp, efp⟩, ⟨-, hhs, ehs⟩, ⟨-, hbp, ebp⟩, -, ⟨hhb, -, -⟩, hsum⟩ := hp
  rw [hsum]
  rcases lt_or_ge n 1039 with hn | hn
  · rw [efp hn, ehs hn, ebp hn]
    omega
  · omega

theorem TimingProfile.CountsNearExact.halfShort_le : p.halfShort ≤ p.scanlineSamples / 2 := by
  have hhs := hp.halfShort.le
  have hsum := hp.sum
  omega

theorem TimingProfile.CountsNearExact.hsync_add_backPorch_le : p.hsyncPulse + p.backPorch ≤ p.scanlineSamples / 2 := by
  have hhs := hp.hsyncPulse.le
  have hbp := hp.backPorch.le
  have hsum := hp.sum
  omega

theorem TimingProfile.CountsNearExact.scanlineSamples_le (h2 : n < 65536) : p.scanlineSamples ≤ 80736 := by
  have hfp := hp.frontPorch.le
  have hhs := hp.hsyncPulse.le
  have hbp := hp.backPorch.le
  have hsum := hp.sum
  omega

end

/-! ## Every value fits its register (R114) -/

/-- The values of a profile are 32-bit values. -/
structure TimingProfile.FitsRegisters (p : TimingProfile) : Prop where
  frontPorch : p.frontPorch < 2 ^ 32
  hsyncPulse : p.hsyncPulse < 2 ^ 32
  backPorch : p.backPorch < 2 ^ 32
  scanlineSamples : p.scanlineSamples < 2 ^ 32
  halfShort : p.halfShort < 2 ^ 32
  halfBroad : p.halfBroad < 2 ^ 32
  sampleFreqHz : p.sampleFreqHz < 2 ^ 32
  pixelFreqHz : p.pixelFreqHz < 2 ^ 32

theorem pixelFreqHz64_lt {n : Nat} (h1 : 1 ≤ n) (h2 : n < 65536) : pixelFreqHz64 n < 2 ^ 32 := by
  have hnear := (abs_le.1 (pixelFreq64_near n h1 h2)).2
  have hn : (n : ℚ) ≤ 65536 := by exact_mod_cast h2.le
  rw [pixelFreqHz64, trunc_eq_floor, Nat.floor_lt' (by norm_num)]
  norm_num at hnear ⊢
  linarith

/-- The exact value of b(64e-6). -/
theorem b64Line_toRat : b64Line.toRat = 4722366482869645 / 2 ^ 66 := by
  rw [show b64Line = ⟨4722366482869645, -66⟩ by decide, toRat_eq]
  norm_num

theorem sampleFreqHz64_lt {n : Nat} (h1 : 1 ≤ n) (h2 : n < 65536) : sampleFreqHz64 n < 2 ^ 32 := by
  have hsum : scanlineSamples64 n = frontPorch64 n + hsyncPulse64 n + n + backPorch64 n := rfl
  have hmax : scanlineSamples64 n ≤ 80736 := (timingProfile_countsNearExact .binary64 h1 h2).scanlineSamples_le h2
  have hlo : (1 : ℚ) ≤ scanlineSamples64 n := by exact_mod_cast (by omega : 1 ≤ scanlineSamples64 n)
  have hhi : (scanlineSamples64 n : ℚ) ≤ 80736 := by exact_mod_cast hmax
  have herr := div_error (ofNat (scanlineSamples64 n)) b64Line (ofNat_sig_pos _ (by omega) (by omega)) (by decide)
    (ten_pow_small (by rw [ofNat_toRat _ (by omega), b64Line_toRat]; norm_num; linarith))
  rw [ofNat_toRat _ (by omega), b64Line_toRat] at herr
  have hupper := (abs_le.1 herr).2
  rw [sampleFreqHz64, trunc_eq_floor, Nat.floor_lt' (by norm_num)]
  norm_num at hupper ⊢
  linarith

theorem timingProfile_fitsRegisters (mode : NumericMode) {n : Nat} (h1 : 1 ≤ n) (h2 : n < 65536) :
    (timingProfile mode n).FitsRegisters := by
  have hp := timingProfile_countsNearExact mode h1 h2
  have hS := hp.scanlineSamples_le h2
  have hFP := hp.frontPorch.le
  have hHS := hp.hsyncPulse.le
  have hBP := hp.backPorch.le
  have hSh := hp.halfShort.le
  have hBr := hp.halfBroad.le
  refine ⟨by omega, by omega, by omega, by omega, by omega, by omega, ?_, ?_⟩
  · cases mode with
    | exact => exact (Nat.mul_le_mul_left 15625 hS).trans_lt (by norm_num)
    | binary64 => exact sampleFreqHz64_lt h1 h2
  · cases mode with
    | exact => exact show 20000000 * n / 1039 < 2 ^ 32 by omega
    | binary64 => exact pixelFreqHz64_lt h1 h2

/-- The registers hold the profile that was written to them. -/
theorem State.profile_withProfile {p : TimingProfile} (hp : p.FitsRegisters) (s : State) :
    (s.withProfile p).profile = p := by
  obtain ⟨h1, h2, h3, h4, h5, h6, h7, h8⟩ := hp
  simp only [State.profile, State.withProfile, BitVec.toNat_ofNat, Nat.mod_eq_of_lt, h1, h2, h3, h4, h5, h6, h7, h8]

theorem State.profileInv_iff_of_configured {s : State} (hc : s.configured = true) :
    s.ProfileInv ↔ 1 ≤ s.ppl.toNat ∧ s.profile = timingProfile s.config.numericMode s.ppl.toNat := by
  rw [State.ProfileInv, if_pos hc]

/-- A successful CONFIGURE makes the registers the profile of its operand (R100). -/
theorem State.latchProfile_profileInv (s : State) {n : BitVec 16} (hn : n ≠ 0#16) : (s.latchProfile n).ProfileInv := by
  have h1 : 1 ≤ n.toNat := Nat.one_le_iff_ne_zero.2 fun h0 => hn (BitVec.eq_of_toNat_eq h0)
  exact (State.profileInv_iff_of_configured rfl).2
    ⟨h1, State.profile_withProfile (timingProfile_fitsRegisters s.config.numericMode h1 n.isLt) { s with ppl := n }⟩

/-! ## What the invariant says of a configured engine -/

section
variable {s : State} (h : s.ProfileInv) (hc : s.configured = true)
include h hc

theorem State.ProfileInv.countsNearExact : s.profile.CountsNearExact s.ppl.toNat := by
  obtain ⟨h1, hp⟩ := (State.profileInv_iff_of_configured hc).1 h
  rw [hp]
  exact timingProfile_countsNearExact _ h1 s.ppl.isLt

theorem State.ProfileInv.halfBroad_le_halfLine : s.halfBroad.toNat ≤ s.halfLine :=
  (h.countsNearExact hc).halfBroad_le

theorem State.ProfileInv.halfShort_le_halfLine : s.halfShort.toNat ≤ s.halfLine :=
  (h.countsNearExact hc).halfShort_le

theorem State.ProfileInv.hsync_add_backPorch_le_halfLine : s.hsyncPulse.toNat + s.backPorch.toNat ≤ s.halfLine :=
  (h.countsNearExact hc).hsync_add_backPorch_le

theorem State.ProfileInv.scanline_sum :
    s.scanlineSamples.toNat = s.frontPorch.toNat + s.hsyncPulse.toNat + s.ppl.toNat + s.backPorch.toNat :=
  (h.countsNearExact hc).sum

theorem State.ProfileInv.pixelFreqHz_eq :
    s.pixelFreqHz.toNat = (timingProfile s.config.numericMode s.ppl.toNat).pixelFreqHz :=
  congrArg TimingProfile.pixelFreqHz ((State.profileInv_iff_of_configured hc).1 h).2

end

end Sys2Proof.Machine
end

section
/-! SUPPORT. The teletext port: a word that decodes is the word of its operation (R83), and the port answers every word
with the outputs of `ttOutputs` (R190, R197). -/

namespace Sys2Proof

theorem ttWord_fields {t : TtWord} (h : ttReserved t = 0#4) : ttWord (ttTop t) (ttArg t) = t := by
  have high : ttTop t ++ ttReserved t = t.extractLsb' 8 8 := BitVec.extractLsb'_append_extractLsb'_eq_extractLsb' rfl
  have whole : t.extractLsb' 8 8 ++ ttArg t = t.extractLsb' 0 16 :=
    BitVec.extractLsb'_append_extractLsb'_eq_extractLsb' rfl
  rw [ttWord, ← h, high, whole]
  exact BitVec.extractLsb'_eq_self

theorem nibbles_ttArg (t : TtWord) : t.extractLsb' 4 4 ++ t.extractLsb' 0 4 = ttArg t :=
  BitVec.extractLsb'_append_extractLsb'_eq_extractLsb' rfl

theorem packet_ttArg (t : TtWord) : t.extractLsb' 3 5 ++ t.extractLsb' 0 3 = ttArg t :=
  BitVec.extractLsb'_append_extractLsb'_eq_extractLsb' rfl

/-- A port word that decodes is the encoding of its operation. -/
theorem encode_of_decodeT {t : TtWord} {i : Instr} (h : decodeT t = .ok i) : encode i = .teletext t := by
  unfold decodeT at h
  split at h
  case isFalse => cases h
  rename_i hr
  have ht := ttWord_fields hr
  split at h
  · rename_i htop
    split at h
    · rename_i harg
      cases h
      rw [htop, harg] at ht
      exact congrArg Encoded.teletext ht
    · cases h
  split at h
  · rename_i htop
    cases h
    rw [htop] at ht
    exact congrArg Encoded.teletext ht
  split at h
  · rename_i htop
    split at h
    · rename_i hhigh
      cases h
      rw [htop, ← nibbles_ttArg, hhigh] at ht
      exact congrArg Encoded.teletext ht
    · cases h
  split at h
  · rename_i htop
    cases h
    rw [htop, ← packet_ttArg] at ht
    exact congrArg Encoded.teletext ht
  · cases h

/-- Every operation's word decodes. -/
@[simp] theorem decodeT_wordTtParity (byte : BitVec 8) : decodeT (wordTtParity byte) = .ok (.ttParity byte) := by
  simp [decodeT, wordTtParity]

@[simp] theorem decodeT_wordTtHamming (nibble : BitVec 4) :
    decodeT (wordTtHamming nibble) = .ok (.ttHamming nibble) := by
  simp [decodeT]

@[simp] theorem decodeT_wordTtPktaddr (mag : BitVec 3) (pkt : BitVec 5) :
    decodeT (wordTtPktaddr mag pkt) = .ok (.ttPktaddr mag pkt) := by
  simp [decodeT]

end Sys2Proof

namespace Sys2Proof.Machine

open Sys2Proof

@[simp] theorem ttOutputs_wordTtNone : ttOutputs wordTtNone = (0x0000#16, false) := by decide

@[simp] theorem ttOutputs_wordTtParity (byte : BitVec 8) :
    ttOutputs (wordTtParity byte) = (ttParityOut byte, false) := by
  have hrow : wordTtParity byte ≠ 0x0000#16 ∧ wordTtParity byte &&& 0xFF00#16 = 0x1000#16 ∧
      (wordTtParity byte).setWidth 8 = byte := by
    revert byte; decide
  obtain ⟨hnone, hparity, harg⟩ := hrow
  rw [ttOutputs, if_neg hnone, if_pos hparity, harg]

@[simp] theorem ttOutputs_wordTtHamming (nibble : BitVec 4) :
    ttOutputs (wordTtHamming nibble) = (ttHammingOut nibble, false) := by
  revert nibble; decide

@[simp] theorem ttOutputs_wordTtPktaddr (mag : BitVec 3) (pkt : BitVec 5) :
    ttOutputs (wordTtPktaddr mag pkt) = (ttPktaddrOut mag pkt, false) := by
  have hrow : wordTtPktaddr mag pkt ≠ 0x0000#16 ∧ wordTtPktaddr mag pkt &&& 0xFF00#16 = 0x3000#16 ∧
      wordTtPktaddr mag pkt &&& 0xFFF0#16 ≠ 0x2000#16 ∧ (wordTtPktaddr mag pkt).setWidth 3 = mag ∧
      (wordTtPktaddr mag pkt >>> 3).setWidth 5 = pkt := by
    revert mag pkt; decide
  obtain ⟨hnone, hpktaddr, hnotHamming, hmag, hpkt⟩ := hrow
  have hnotParity : wordTtPktaddr mag pkt &&& 0xFF00#16 ≠ 0x1000#16 := by rw [hpktaddr]; decide
  rw [ttOutputs, if_neg hnone, if_neg hnotParity, if_neg hnotHamming, if_pos hpktaddr, hmag, hpkt]

/-- A word with given high bits is those bits and its low k bits. -/
theorem eq_of_masked {t mask val : TtWord} (k : Nat) (hmask : ~~~mask = BitVec.ofNat 16 (2 ^ k - 1))
    (hk : k ≤ 16) (h : t &&& mask = val) : t = val ||| (t.setWidth k).setWidth 16 := by
  have hlow : t &&& ~~~mask = (t.setWidth k).setWidth 16 := by
    have hpow : 2 ^ k ≤ 2 ^ 16 := Nat.pow_le_pow_right (by decide) hk
    have hmod : t.toNat % 2 ^ k < 2 ^ 16 := (Nat.mod_le _ _).trans_lt t.isLt
    rw [hmask]
    apply BitVec.eq_of_toNat_eq
    simp only [BitVec.toNat_and, BitVec.toNat_ofNat, BitVec.toNat_setWidth]
    rw [Nat.mod_eq_of_lt (by omega : 2 ^ k - 1 < 2 ^ 16), Nat.and_two_pow_sub_one_eq_mod, Nat.mod_eq_of_lt hmod]
  rw [← hlow, ← h]
  ext i hi
  simp [← Bool.and_or_distrib_left]

/-- The words that `ttOutputs` takes for legal decode (R83). -/
theorem eq_wordTtParity_of_mask {t : TtWord} (h : t &&& 0xFF00#16 = 0x1000#16) : t = wordTtParity (t.setWidth 8) := by
  have hword (byte : BitVec 8) : 0x1000#16 ||| byte.setWidth 16 = wordTtParity byte := by revert byte; decide
  exact (eq_of_masked 8 (by decide) (by decide) h).trans (hword _)

theorem eq_wordTtHamming_of_mask {t : TtWord} (h : t &&& 0xFFF0#16 = 0x2000#16) :
    t = wordTtHamming (t.setWidth 4) := by
  have hword (nibble : BitVec 4) : 0x2000#16 ||| nibble.setWidth 16 = wordTtHamming nibble := by revert nibble; decide
  exact (eq_of_masked 4 (by decide) (by decide) h).trans (hword _)

theorem exists_wordTtPktaddr_of_mask {t : TtWord} (h : t &&& 0xFF00#16 = 0x3000#16) :
    ∃ mag pkt, t = wordTtPktaddr mag pkt := by
  have hword (arg : BitVec 8) :
      0x3000#16 ||| arg.setWidth 16 = wordTtPktaddr (arg.extractLsb' 0 3) (arg.extractLsb' 3 5) := by
    revert arg; decide
  exact ⟨_, _, (eq_of_masked 8 (by decide) (by decide) h).trans (hword _)⟩

/-- A word of no row is answered with 0 and tt_err = 1 (R84, R197). -/
theorem ttOutputs_of_decodeT_error {t : TtWord} {e : DecodeError} (h : decodeT t = .error e) :
    ttOutputs t = (0x0000#16, true) := by
  have hnone : t ≠ 0x0000#16 := by rintro rfl; cases h
  have hparity : ¬ t &&& 0xFF00#16 = 0x1000#16 := fun hm => by
    rw [eq_wordTtParity_of_mask hm, decodeT_wordTtParity] at h
    cases h
  have hhamming : ¬ t &&& 0xFFF0#16 = 0x2000#16 := fun hm => by
    rw [eq_wordTtHamming_of_mask hm, decodeT_wordTtHamming] at h
    cases h
  have hpktaddr : ¬ t &&& 0xFF00#16 = 0x3000#16 := fun hm => by
    obtain ⟨mag, pkt, rfl⟩ := exists_wordTtPktaddr_of_mask hm
    rw [decodeT_wordTtPktaddr] at h
    cases h
  rw [ttOutputs, if_neg hnone, if_neg hparity, if_neg hhamming, if_neg hpktaddr]

/-- An operation drives its own word onto the port, and the outputs are the port's function of it (R190). -/
theorem exec_of_encode_teletext {i : Instr} {t : TtWord} (h : encode i = .teletext t) (s : State) :
    exec i s = .next (s.driveTeletext t (ttOutputs t).1 (ttOutputs t).2) := by
  cases i <;> cases h
  case ttNone => rw [ttOutputs_wordTtNone]; rfl
  case ttParity byte => rw [ttOutputs_wordTtParity]; rfl
  case ttHamming nibble => rw [ttOutputs_wordTtHamming]; rfl
  case ttPktaddr mag pkt => rw [ttOutputs_wordTtPktaddr]; rfl

/-- The port answers every word, legal or not, by one function of the word (R190, R197). -/
theorem presentTeletext_eq (t : TtWord) (s : State) :
    s.presentTeletext t = .next (s.driveTeletext t (ttOutputs t).1 (ttOutputs t).2) := by
  cases hd : decodeT t with
  | ok i => simp only [State.presentTeletext, hd, exec_of_encode_teletext (encode_of_decodeT hd)]
  | error e => simp only [State.presentTeletext, hd, ttOutputs_of_decodeT_error hd]

end Sys2Proof.Machine
end

section
/-! SUPPORT. What each instruction keeps of the invariant (R40) and of the parameters, what a step is made of, and from
these the statements on the invariant and the parameters. -/

namespace Sys2Proof.Machine

open Sys2Proof

/-! ## The segments of a configured engine: their lengths and their codes (R133, R140, R132) -/

theorem length_payloadBytes_le (len : BitVec 16) (payload : List Word) :
    (payloadBytes len payload).length ≤ len.toNat := List.length_take_le _ _

section
variable {s : State} (h : s.ProfileInv) (hc : s.configured = true)
include h hc

theorem length_syncedHalfLine : (syncedHalfLine s).length = s.halfLine := by
  have := h.hsync_add_backPorch_le_halfLine hc
  simp only [syncedHalfLine, List.length_append, length_rep]
  omega

theorem length_activeScanline_le (payload : List Word) :
    (activeScanline s.ppl payload s).length ≤ s.scanlineSamples.toNat := by
  have hbytes := length_payloadBytes_le s.ppl payload
  have hsum := h.scanline_sum hc
  simp only [activeScanline, List.length_append, List.length_map, length_rep]
  omega

end

/-- The code of an amplitude of [0, 1] (R37, R132). -/
def IsAmplitudeCode (c : Code) : Prop := c.toNat ≤ 2550

theorem isAmplitudeCode_codeSync : IsAmplitudeCode codeSync := by unfold IsAmplitudeCode; decide
theorem isAmplitudeCode_codeBlank : IsAmplitudeCode codeBlank := by unfold IsAmplitudeCode; decide

theorem isAmplitudeCode_codePixel (p : Byte) : IsAmplitudeCode (codePixel p) := by
  have := p.isLt
  rw [IsAmplitudeCode, codePixel_toNat]
  omega

theorem isAmplitudeCode_of_mem_rep {n : Nat} {c : Code} (hc : IsAmplitudeCode c) : ∀ x ∈ rep n c, IsAmplitudeCode x :=
  fun _ hx => mem_rep hx ▸ hc

theorem isAmplitudeCode_of_mem_syncBlock (pw h reps : Nat) : ∀ x ∈ syncBlock pw h reps, IsAmplitudeCode x := by
  intro _ hx
  rcases mem_syncBlock hx with rfl | rfl
  · exact isAmplitudeCode_codeSync
  · exact isAmplitudeCode_codeBlank

theorem isAmplitudeCode_of_mem_syncedHalfLine (s : State) : ∀ x ∈ syncedHalfLine s, IsAmplitudeCode x := by
  simp only [syncedHalfLine, List.forall_mem_append]
  exact ⟨⟨isAmplitudeCode_of_mem_rep isAmplitudeCode_codeSync, isAmplitudeCode_of_mem_rep isAmplitudeCode_codeBlank⟩,
    isAmplitudeCode_of_mem_rep isAmplitudeCode_codeBlank⟩

theorem isAmplitudeCode_of_mem_activeScanline (len : BitVec 16) (payload : List Word) (s : State) :
    ∀ x ∈ activeScanline len payload s, IsAmplitudeCode x := by
  simp only [activeScanline, List.forall_mem_append, List.forall_mem_map]
  exact ⟨⟨⟨isAmplitudeCode_of_mem_rep isAmplitudeCode_codeSync, isAmplitudeCode_of_mem_rep isAmplitudeCode_codeBlank⟩,
    fun p _ => isAmplitudeCode_codePixel p⟩, isAmplitudeCode_of_mem_rep isAmplitudeCode_codeBlank⟩

/-! ## SAMPLE_BUF (R40 a) -/

theorem State.BufferInv.appendCodes {s : State} (h : s.BufferInv) {codes : List Code}
    (hfit : s.sampleCount.toNat + codes.length ≤ s.config.bufCap.toNat) (hcodes : ∀ c ∈ codes, IsAmplitudeCode c) :
    (s.appendCodes codes).BufferInv := by
  obtain ⟨hcount, -, hall⟩ := h
  have hcap := s.config.bufCap.isLt
  refine ⟨?_, ?_, List.forall_mem_append.2 ⟨hall, hcodes⟩⟩
  · simp only [State.appendCodes_sampleCount, State.appendCodes_sampleBuf, BitVec.toNat_add, BitVec.toNat_ofNat,
      List.length_append]
    omega
  · simp only [State.appendCodes_sampleBuf, State.appendCodes_config, List.length_append]
    omega

/-- The frame of an EMIT command, when its codes are no more than the growth that CheckCap allowed (R130, R131). -/
theorem State.BufferInv.emitFrame {s : State} (h : s.BufferInv) {header : Word} {check : Option FaultCode} {g : Nat}
    {codes : List Code} (hlen : s.configured = true → check = none → codes.length ≤ g)
    (hcodes : ∀ c ∈ codes, IsAmplitudeCode c) : (emitFrame header check g codes s).BufferInv := by
  rcases emitFrame_cases header check g codes s with ⟨-, e⟩ | ⟨code, -, -, e⟩ | ⟨-, -, -, e⟩ | ⟨hc, hk, hg, e⟩
  · rw [e]; exact h
  · rw [e]; exact h
  · rw [e]; exact h
  · rw [e]
    exact h.appendCodes (by have := hlen hc hk; omega) hcodes

theorem rowFault_eq_none {len : BitVec 16} {s : State} : rowFault len s = none ↔ len = s.ppl := by
  simp [rowFault]

theorem pulseFault_eq_none {pw : BitVec 16} {s : State} : pulseFault pw s = none ↔ pw.toNat ≤ s.halfLine := by
  simp [pulseFault]

/-- CONFIGURE latches a profile or faults (R100). -/
theorem execConfigure_effect {n : BitVec 16} {s t : State} (h : exec (.configure n) s = .next t) :
    t = s.latchProfile n ∨ ∃ code header, t = s.raiseFault code header := by
  simp only [exec, execConfigure] at h
  split at h
  · cases h; exact .inr ⟨_, _, rfl⟩
  · split at h
    · cases h; exact .inr ⟨_, _, rfl⟩
    · cases h; exact .inl rfl

theorem exec_keeps_bufferInv {i : Instr} {s t : State} (h : exec i s = .next t) (hp : s.ProfileInv)
    (hb : s.BufferInv) : t.BufferInv := by
  cases i with
  | nop => cases h; exact hb
  | configure n =>
    rcases execConfigure_effect h with rfl | ⟨code, header, rfl⟩
    · exact hb
    · exact hb
  | emitBroad reps =>
    cases h
    exact hb.emitFrame (fun hc _ => (length_syncBlock (hp.halfBroad_le_halfLine hc) _).le)
      (isAmplitudeCode_of_mem_syncBlock _ _ _)
  | emitShort reps =>
    cases h
    exact hb.emitFrame (fun hc _ => (length_syncBlock (hp.halfShort_le_halfLine hc) _).le)
      (isAmplitudeCode_of_mem_syncBlock _ _ _)
  | emitPulse reps pw =>
    cases h
    exact hb.emitFrame (fun _ hw => (length_syncBlock (pulseFault_eq_none.1 hw) _).le)
      (isAmplitudeCode_of_mem_syncBlock _ _ _)
  | emitBlank =>
    cases h
    exact hb.emitFrame (fun _ _ => (length_rep _ _).le) (isAmplitudeCode_of_mem_rep isAmplitudeCode_codeBlank)
  | emitSynced =>
    cases h
    exact hb.emitFrame (fun hc _ => (length_syncedHalfLine hp hc).le) (isAmplitudeCode_of_mem_syncedHalfLine s)
  | emitActive len payload =>
    cases h
    refine hb.emitFrame (fun hc hlen => ?_) (isAmplitudeCode_of_mem_activeScanline len payload s)
    obtain rfl := rowFault_eq_none.1 hlen
    exact length_activeScanline_le hp hc payload
  | bufHandoff => cases h; exact ⟨rfl, Nat.zero_le _, List.forall_mem_nil _⟩
  | ttNone => cases h; exact hb
  | ttParity byte => cases h; exact hb
  | ttHamming nibble => cases h; exact hb
  | ttPktaddr mag pkt => cases h; exact hb

/-! ## The profile, the fault registers, CMD_ASM and the parameters (R40 b-d, R38, R20) -/

theorem exec_keeps_profileInv {i : Instr} {s t : State} (h : exec i s = .next t) (hp : s.ProfileInv) :
    t.ProfileInv := by
  rcases exec_cases h with ⟨-, rfl⟩ | ⟨n, -, -, hn, rfl⟩ | ⟨code, header, -, rfl⟩ | ⟨codes, -, rfl⟩ | ⟨-, rfl⟩ |
    ⟨w, r, e, rfl⟩
  · exact hp
  · exact s.latchProfile_profileInv hn
  · exact hp
  · exact hp
  · exact hp
  · exact hp

theorem State.raiseFault_faultInv {code : FaultCode} (hcode : code ≠ .none) (header : Word) (s : State) :
    (s.raiseFault code header).FaultInv := by
  simp [State.FaultInv, hcode]

theorem exec_keeps_faultInv {i : Instr} {s t : State} (h : exec i s = .next t) (hf : s.FaultInv) : t.FaultInv := by
  rcases exec_cases h with ⟨-, rfl⟩ | ⟨n, -, -, -, rfl⟩ | ⟨code, header, hcode, rfl⟩ | ⟨codes, -, rfl⟩ | ⟨-, rfl⟩ |
    ⟨w, r, e, rfl⟩
  · exact hf
  · exact hf
  · exact s.raiseFault_faultInv hcode header
  · exact hf
  · exact hf
  · exact hf

theorem State.TeletextInv.emitFrame {s : State} (h : s.TeletextInv) (header : Word) (check : Option FaultCode) (g : Nat)
    (codes : List Code) : (emitFrame header check g codes s).TeletextInv := by
  rcases emitFrame_effect header check g codes s with e | ⟨code, e⟩
  · rw [e]; exact h
  · rw [e]; exact h

/-- The commands leave the teletext wires alone (R199); an operation of the port leaves its word's outputs there. -/
theorem exec_keeps_teletextInv {i : Instr} {s t : State} (h : exec i s = .next t) (ht : s.TeletextInv) :
    t.TeletextInv := by
  have operation {w : TtWord} (he : encode i = .teletext w) : t.TeletextInv := by
    rw [exec_of_encode_teletext he] at h
    cases h
    rfl
  cases i with
  | nop => cases h; exact ht
  | configure n =>
    rcases execConfigure_effect h with rfl | ⟨code, header, rfl⟩
    · exact ht
    · exact ht
  | emitBroad reps => cases h; exact ht.emitFrame _ _ _ _
  | emitShort reps => cases h; exact ht.emitFrame _ _ _ _
  | emitPulse reps pw => cases h; exact ht.emitFrame _ _ _ _
  | emitBlank => cases h; exact ht.emitFrame _ _ _ _
  | emitSynced => cases h; exact ht.emitFrame _ _ _ _
  | emitActive len payload => cases h; exact ht.emitFrame _ _ _ _
  | bufHandoff => cases h; exact ht
  | ttNone => exact operation rfl
  | ttParity byte => exact operation rfl
  | ttHamming nibble => exact operation rfl
  | ttPktaddr mag pkt => exact operation rfl

theorem exec_config {i : Instr} {s t : State} (h : exec i s = .next t) : t.config = s.config := by
  rcases exec_cases h with ⟨-, rfl⟩ | ⟨n, -, -, -, rfl⟩ | ⟨code, header, -, rfl⟩ | ⟨codes, -, rfl⟩ | ⟨-, rfl⟩ |
    ⟨w, r, e, rfl⟩
  all_goals rfl

/-! ## Steps -/

/-- A step performs the host's next action (R58). -/
theorem step_eq_perform {s : State} {a : HostAction} {rest : List HostAction} (hq : s.hostQueue = a :: rest) :
    step s = ({ s with hostQueue := rest } : State).perform a := by
  simp only [step, State.advance, hq]

theorem step_teletextWord {s : State} {w : TtWord} {rest : List HostAction}
    (hq : s.hostQueue = .teletextWord w :: rest) :
    step s = .next (({ s with hostQueue := rest } : State).driveTeletext w (ttOutputs w).1 (ttOutputs w).2) :=
  (step_eq_perform hq).trans (presentTeletext_eq w _)

/-- A property of states that every operation a step is made of keeps, and that does not speak of CMD_ASM or of the
host's lists. -/
structure KeptByOperations (P : State → Prop) : Prop where
  hostSide : ∀ (s : State) (asm : List Word) (queue : List HostAction) (log : List (BitVec 8 × Word)),
    P s → P { s with cmdAsm := asm, hostQueue := queue, readLog := log }
  exec : ∀ (i : Instr) (s t : State), exec i s = .next t → P s → P t
  illegal : ∀ (s : State) (header : Word), P s → P (s.raiseFault .illegalCommand header)
  teletext : ∀ (s : State) (w : TtWord), P s → P (s.driveTeletext w (ttOutputs w).1 (ttOutputs w).2)
  reset : ∀ s : State, P s → P s.resetEngine

theorem KeptByOperations.step {P : State → Prop} (hP : KeptByOperations P) {s t : State} (h : step s = .next t)
    (hs : P s) : P t := by
  rcases step_cases h with ⟨-, rfl⟩ | ⟨w, rest, -, -, hword⟩ | ⟨w, rest, hq, -⟩ | ⟨offset, rest, -, -, rfl⟩ |
    ⟨rest, -, rfl⟩
  · exact hs
  · rcases hword with ⟨-, rfl⟩ | ⟨-, header, payload, -, ⟨i, u, -, hu, rfl⟩ | ⟨-, rfl⟩⟩
    · exact hP.hostSide s _ rest s.readLog hs
    · have hexec := hP.exec i _ u hu (hP.hostSide s (header :: payload) rest s.readLog hs)
      exact hP.hostSide u [] u.hostQueue u.readLog hexec
    · exact hP.illegal _ header (hP.hostSide s s.cmdAsm rest s.readLog hs)
  · rw [step_teletextWord hq] at h
    cases h
    exact hP.teletext _ w (hP.hostSide s s.cmdAsm rest s.readLog hs)
  · exact hP.hostSide s s.cmdAsm rest _ hs
  · exact hP.reset _ (hP.hostSide s s.cmdAsm rest s.readLog hs)

/-! ## The whole invariant (R40) -/

/-- The invariant but for CMD_ASM, which holds a whole command while exec runs. -/
structure State.InvOutsideCmdAsm (s : State) : Prop where
  profile : s.ProfileInv
  buffer : s.BufferInv
  fault : s.FaultInv
  teletext : s.TeletextInv

/-- The registers of an engine after reset meet the invariant, for every choice of the parameters (R44). -/
theorem State.resetEngine_invOutsideCmdAsm {s : State} (h : s.TeletextInv) : s.resetEngine.InvOutsideCmdAsm where
  profile := ⟨rfl, rfl⟩
  buffer := ⟨rfl, Nat.zero_le _, List.forall_mem_nil _⟩
  fault := ⟨⟨fun _ => rfl, fun _ => rfl⟩, fun _ => rfl⟩
  teletext := h

theorem keptByOperations_invOutsideCmdAsm : KeptByOperations State.InvOutsideCmdAsm where
  hostSide := fun _ _ _ _ ⟨hp, hb, hf, ht⟩ => ⟨hp, hb, hf, ht⟩
  exec := fun _ _ _ h ⟨hp, hb, hf, ht⟩ =>
    ⟨exec_keeps_profileInv h hp, exec_keeps_bufferInv h hp hb, exec_keeps_faultInv h hf, exec_keeps_teletextInv h ht⟩
  illegal := fun s header ⟨hp, hb, _, ht⟩ => ⟨hp, hb, s.raiseFault_faultInv (by decide) header, ht⟩
  teletext := fun _ _ ⟨hp, hb, hf, _⟩ => ⟨hp, hb, hf, rfl⟩
  reset := fun _ h => State.resetEngine_invOutsideCmdAsm h.teletext

theorem State.assemblyInv_of_cmdAsm_nil {s : State} (h : s.cmdAsm = []) : s.AssemblyInv :=
  ⟨fun header payload hcons => (by rw [h] at hcons; cases hcons), fun _ => h⟩

/-- A word that does not complete its command extends a proper beginning of it to another one (R55, R79). -/
theorem State.AssemblyInv.append_word {s : State} (h : s.AssemblyInv) {w : Word}
    (hc : complete (s.cmdAsm ++ [w]) = false) :
    ∀ header payload, s.cmdAsm ++ [w] = header :: payload → (s.cmdAsm ++ [w]).length < commandLength header := by
  intro header payload hw
  have hle : (s.cmdAsm ++ [w]).length ≤ commandLength header := by
    cases hasm : s.cmdAsm with
    | nil => simp [commandLength]
    | cons x xs =>
      rw [hasm, List.cons_append, List.cons.injEq] at hw
      obtain ⟨rfl, -⟩ := hw
      have := h.1 x xs hasm
      rw [hasm] at this
      simpa using this
  have hne : (s.cmdAsm ++ [w]).length ≠ commandLength header := fun heq => by
    rw [hw] at hc heq
    simp [complete, heq] at hc
  omega

theorem step_keeps_assemblyInv {s t : State} (h : step s = .next t) (ha : s.AssemblyInv) : t.AssemblyInv := by
  rcases step_cases h with ⟨-, rfl⟩ | ⟨w, rest, -, hf, hword⟩ | ⟨w, rest, hq, -⟩ | ⟨offset, rest, -, -, rfl⟩ |
    ⟨rest, -, rfl⟩
  · exact ha
  · rcases hword with ⟨hc, rfl⟩ | ⟨-, header, payload, -, ⟨i, u, -, -, rfl⟩ | ⟨-, rfl⟩⟩
    · exact ⟨ha.append_word hc, fun hfaulted => absurd (hf.symm.trans hfaulted) (by decide)⟩
    · exact State.assemblyInv_of_cmdAsm_nil rfl
    · exact State.assemblyInv_of_cmdAsm_nil rfl
  · rw [step_teletextWord hq] at h
    cases h
    exact ha
  · exact ha
  · exact State.assemblyInv_of_cmdAsm_nil rfl

/-- Settles O45, from the parts of the invariant that each operation keeps and the one that the command port keeps. -/
theorem stepKeepsTheInvariant : Obligations.StepKeepsTheInvariant := by
  intro s t hs h
  have hrest : t.InvOutsideCmdAsm :=
    keptByOperations_invOutsideCmdAsm.step h ⟨hs.profile, hs.buffer, hs.fault, hs.teletext⟩
  exact ⟨hrest.profile, hrest.buffer, hrest.fault, step_keeps_assemblyInv h hs.assembly, hrest.teletext⟩

/-- Settles O44: State.reset is its own reset, its teletext wires idle. -/
theorem resetSatisfiesTheInvariant : Obligations.ResetSatisfiesTheInvariant := by
  intro c queue
  have h : ({ State.reset with config := c, hostQueue := queue } : State).InvOutsideCmdAsm :=
    State.resetEngine_invOutsideCmdAsm (s := { State.reset with config := c, hostQueue := queue })
      (ttOutputs_wordTtNone.symm)
  exact ⟨h.profile, h.buffer, h.fault, State.assemblyInv_of_cmdAsm_nil rfl, h.teletext⟩

/-- Settles O47: no operation writes the parameters. -/
theorem parametersNeverChange : Obligations.ParametersNeverChange := by
  intro s t h
  have hkept : KeptByOperations (fun u => u.config = s.config) :=
    { hostSide := fun _ _ _ _ hu => hu
      exec := fun _ _ _ hexec hu => (exec_config hexec).trans hu
      illegal := fun _ _ hu => hu
      teletext := fun _ _ hu => hu
      reset := fun _ hu => hu }
  exact hkept.step h rfl

end Sys2Proof.Machine
end

section
/-! SUPPORT. What a step does to the engine's registers, what a host reads of them, and reset. -/

namespace Sys2Proof.Machine

open Sys2Proof

/-! ## What a step does to the engine's registers -/

/-- A step moves only the ports and the host's side, or runs a command, or faults on an illegal header, or resets. -/
theorem step_effect {s t : State} (h : step s = .next t) :
    (∃ asm queue log w r e,
      t = { s with cmdAsm := asm, hostQueue := queue, readLog := log, ttIn := w, ttOut := r, ttErr := e }) ∨
    (∃ w rest i u, s.hostQueue = .commandWord w :: rest ∧ s.faulted = false ∧
      decode (.command (s.cmdAsm ++ [w])) = .ok i ∧
      exec i { s with hostQueue := rest, cmdAsm := s.cmdAsm ++ [w] } = .next u ∧ t = { u with cmdAsm := [] }) ∨
    (∃ rest header, t = ({ s with hostQueue := rest } : State).raiseFault .illegalCommand header) ∨
    (∃ rest, s.hostQueue = .assertReset :: rest ∧ t = ({ s with hostQueue := rest } : State).resetEngine) := by
  rcases step_cases h with ⟨-, rfl⟩ | ⟨w, rest, hq, hf, hword⟩ | ⟨w, rest, hq, -⟩ | ⟨offset, rest, -, -, rfl⟩ |
    ⟨rest, hq, rfl⟩
  · exact .inl ⟨_, _, _, _, _, _, rfl⟩
  · rcases hword with ⟨-, rfl⟩ | ⟨hc, header, payload, hw, ⟨i, u, hd, hu, rfl⟩ | ⟨-, rfl⟩⟩
    · exact .inl ⟨_, _, _, _, _, _, rfl⟩
    · rw [hw] at hc
      rw [← decode_command_of_complete header payload hc, ← hw] at hd
      rw [← hw] at hu
      exact .inr (.inl ⟨w, rest, i, u, hq, hf, hd, hu, rfl⟩)
    · exact .inr (.inr (.inl ⟨rest, header, rfl⟩))
  · rw [step_teletextWord hq] at h
    cases h
    exact .inl ⟨_, _, _, _, _, _, rfl⟩
  · exact .inl ⟨_, _, _, _, _, _, rfl⟩
  · exact .inr (.inr (.inr ⟨rest, hq, rfl⟩))

/-! ## pixelFrequency (R36) -/

theorem pixelFrequency_exact {s : State} (hc : s.configured = true) (hm : s.config.numericMode = .exact) :
    s.pixelFrequency = some (20000000 * (s.ppl.toNat : ℚ) / 1039) := by
  rw [State.pixelFrequency, if_pos hc, hm]

theorem pixelFrequency_binary64 {s : State} (hc : s.configured = true) (hm : s.config.numericMode = .binary64) :
    s.pixelFrequency = some (pixelFreq64 s.ppl.toNat).toRat := by
  rw [State.pixelFrequency, if_pos hc, hm]

/-- Settles O19: both registers of the frequency are truncations of the value that the mode defines. -/
theorem pixelFrequencyIsHeldTruncated : Obligations.PixelFrequencyIsHeldTruncated := by
  refine ⟨fun s hc => by simp [State.pixelFrequency, hc], fun s hp hc => ?_⟩
  have hheld := hp.pixelFreqHz_eq hc
  cases hm : s.config.numericMode with
  | exact =>
    rw [hm] at hheld
    refine ⟨_, pixelFrequency_exact hc hm, ?_, fun _ => ⟨by ring, rfl⟩, nofun⟩
    calc s.pixelFreqHz.toNat = 20000000 * s.ppl.toNat / 1039 := hheld
      _ = ⌊((20000000 * s.ppl.toNat : Nat) : ℚ) / (1039 : Nat)⌋₊ := (Nat.floor_div_eq_div _ _).symm
      _ = ⌊20000000 * (s.ppl.toNat : ℚ) / 1039⌋₊ := by push_cast; rfl
  | binary64 =>
    rw [hm] at hheld
    exact ⟨_, pixelFrequency_binary64 hc hm, hheld.trans (Binary64.trunc_eq_floor _), nofun, fun _ => rfl⟩

/-! ## SAMPLE_BUF (R35, R37) -/

/-- t's buffer is s's with more codes at its end, and the count has grown by their number. -/
def AppendsToBuffer (s t : State) : Prop :=
  ∃ codes, t.sampleBuf = s.sampleBuf ++ codes ∧ t.sampleCount = s.sampleCount + BitVec.ofNat 32 codes.length

/-- A state with the same buffer and count is one with no codes more. -/
theorem appendsToBuffer_of_eq {s t : State} (hbuf : t.sampleBuf = s.sampleBuf)
    (hcount : t.sampleCount = s.sampleCount) :
    AppendsToBuffer s t := ⟨[], by simp [hbuf], by simp [hcount]⟩

theorem exec_appendsToBuffer_or_handsOff {i : Instr} {s t : State} (h : exec i s = .next t) :
    AppendsToBuffer s t ∨ t = s.handOff := by
  rcases exec_cases h with ⟨-, rfl⟩ | ⟨n, -, -, -, rfl⟩ | ⟨code, header, -, rfl⟩ | ⟨codes, -, rfl⟩ | ⟨-, rfl⟩ |
    ⟨w, r, e, rfl⟩
  · exact .inl (appendsToBuffer_of_eq rfl rfl)
  · exact .inl (appendsToBuffer_of_eq rfl rfl)
  · exact .inl (appendsToBuffer_of_eq rfl rfl)
  · exact .inl ⟨codes, rfl, rfl⟩
  · exact .inr rfl
  · exact .inl (appendsToBuffer_of_eq rfl rfl)

/-- Settles O34, by what a step can do. -/
theorem sampleBufferIsAppendOnly : Obligations.SampleBufferIsAppendOnly := by
  intro s t h
  rcases step_effect h with ⟨asm, queue, log, w, r, e, rfl⟩ | ⟨w, rest, i, u, -, -, -, hu, rfl⟩ | ⟨rest, header, rfl⟩ |
    ⟨rest, hq, rfl⟩
  · exact .inl (appendsToBuffer_of_eq rfl rfl)
  · rcases exec_appendsToBuffer_or_handsOff hu with happ | rfl
    · exact .inl happ
    · exact .inr ⟨rfl, rfl, .inr rfl⟩
  · exact .inl (appendsToBuffer_of_eq rfl rfl)
  · exact .inr ⟨rfl, rfl, .inl (by rw [hq]; rfl)⟩

/-! ## The register window (R22, R51) -/

theorem readRegister_aligned {offset : BitVec 8} (ho : offset.toNat % 4 = 0) (s : State) :
    s.readRegister offset 32 = .next { s with readLog := s.readLog ++ [(offset, s.registerAt offset)] } := by
  simp [State.readRegister, ho]

theorem readRegister_refused {offset : BitVec 8} {bits : Nat} (h : bits ≠ 32 ∨ offset.toNat % 4 ≠ 0) (s : State) :
    ∃ r, s.readRegister offset bits = .refused r ∧ (r = .registerReadWidth ∨ r = .misalignedRegisterRead) := by
  by_cases hb : bits = 32
  · have ho : offset.toNat % 4 ≠ 0 := h.resolve_left (not_not_intro hb)
    exact ⟨_, by simp [State.readRegister, hb, ho], .inr rfl⟩
  · exact ⟨_, by simp [State.readRegister, hb], .inl rfl⟩

/-- STATUS as a number (R23). -/
theorem statusWord_toNat (s : State) :
    s.statusWord.toNat = (if s.faulted then 2 else 0) + (if s.configured then 1 else 0) := by
  unfold State.statusWord
  cases s.faulted <;> cases s.configured <;> rfl

theorem registerAt_faultCode_toNat (s : State) : (s.registerAt 0x04#8).toNat = s.faultCode.bits.toNat := by
  have hlt : s.faultCode.bits.toNat < 2 ^ 32 := s.faultCode.bits.isLt.trans (by decide)
  exact (BitVec.toNat_setWidth ..).trans (Nat.mod_eq_of_lt hlt)

theorem registerAt_ppl_toNat (s : State) : (s.registerAt 0x0C#8).toNat = s.ppl.toNat := by
  have hlt : s.ppl.toNat < 2 ^ 32 := s.ppl.isLt.trans (by decide)
  exact (BitVec.toNat_setWidth ..).trans (Nat.mod_eq_of_lt hlt)

/-- Above SAMPLE_COUNT the map has no register (R22). -/
theorem registerAt_unmapped {offset : BitVec 8} (h : 0x34 ≤ offset.toNat) (s : State) : s.registerAt offset = 0#32 := by
  have hne (k : BitVec 8) (hk : k.toNat < 0x34) : offset ≠ k := fun he => by subst he; omega
  unfold State.registerAt
  repeat rw [if_neg (hne _ (by decide))]

/-- Settles O41: an aligned read is the register of the map, every other access is refused. -/
theorem registerWindowFollowsTheMap : Obligations.RegisterWindowFollowsTheMap := by
  refine ⟨fun s offset rest hq ho => ?_, fun s offset bits rest hq hbad => ?_, fun s offset bits value rest hq => ?_⟩
  · refine ⟨s.registerAt offset, (step_eq_perform hq).trans (readRegister_aligned ho _), ?_⟩
    refine ⟨?_, ?_, ?_, ?_, ?_, ?_, ?_, ?_, ?_, ?_, ?_, ?_, ?_, fun h => registerAt_unmapped h s⟩
    · rintro rfl; exact statusWord_toNat s
    · rintro rfl; exact registerAt_faultCode_toNat s
    · rintro rfl; rfl
    · rintro rfl; exact registerAt_ppl_toNat s
    all_goals (rintro rfl; rfl)
  · rw [step_eq_perform hq]
    exact readRegister_refused hbad _
  · exact step_eq_perform hq

/-! ## What the invariant says to a host (R40) -/

theorem FaultCode.bits_toNat_eq_zero_iff (code : FaultCode) : code.bits.toNat = 0 ↔ code = .none := by
  cases code <;> decide

theorem State.FaultInv.registerAt_faultCode {s : State} (h : s.FaultInv) :
    s.registerAt 0x04#8 = 0#32 ↔ s.faulted = false := by
  rw [h.1, ← FaultCode.bits_toNat_eq_zero_iff, ← registerAt_faultCode_toNat, ← BitVec.toNat_inj]
  rfl

theorem State.AssemblyInv.cmdAsm_length_le {s : State} (h : s.AssemblyInv) : s.cmdAsm.length ≤ 1 + 16384 := by
  cases hasm : s.cmdAsm with
  | nil => simp
  | cons header payload =>
    have hlt := h.1 header payload hasm
    rw [hasm] at hlt
    exact hlt.le.trans (commandLength_le header)

/-- Settles O46, from the parts of the invariant. -/
theorem scanlineSumAndCountHold : Obligations.ScanlineSumAndCountHold := by
  intro s hs
  obtain ⟨hcount, hcap, -⟩ := hs.buffer
  exact ⟨hs.profile.scanline_sum, hcount, hcap, hs.fault.registerAt_faultCode, hs.assembly.cmdAsm_length_le⟩

/-! ## STATUS (R23, R43) -/

theorem statusWord_getLsbD (s : State) (k : Nat) :
    s.statusWord.getLsbD k = if k = 0 then s.configured else if k = 1 then s.faulted else false := by
  simp only [State.statusWord, BitVec.getLsbD_append]
  rcases k with _ | _ | k
  · simp
  · simp
  · simp

theorem exec_configured {i : Instr} {s t : State} (h : exec i s = .next t) :
    t.configured = s.configured ∨ ∃ n, i = .configure n ∧ n ≠ 0#16 ∧ t.configured = true ∧ t.ppl = n := by
  rcases exec_cases h with ⟨-, rfl⟩ | ⟨n, rfl, -, hn, rfl⟩ | ⟨code, header, -, rfl⟩ | ⟨codes, -, rfl⟩ | ⟨-, rfl⟩ |
    ⟨w, r, e, rfl⟩
  · exact .inl rfl
  · exact .inr ⟨n, rfl, hn, rfl, rfl⟩
  all_goals exact .inl rfl

/-- t is faulted, by an entry that the last event of its history tells of (R244). -/
def EntersFault (s t : State) : Prop :=
  t.faulted = true ∧ ∃ code info, t.history = s.history ++ [.fault code info] ∧ t.faultCode = code ∧ code ≠ .none

theorem raiseFault_entersFault {code : FaultCode} (hcode : code ≠ .none) (header : Word) (s : State) :
    EntersFault s (s.raiseFault code header) := ⟨rfl, code, header, rfl, rfl, hcode⟩

theorem exec_faulted {i : Instr} {s t : State} (h : exec i s = .next t) :
    t.faulted = s.faulted ∨ EntersFault s t := by
  rcases exec_cases h with ⟨-, rfl⟩ | ⟨n, -, -, -, rfl⟩ | ⟨code, header, hcode, rfl⟩ | ⟨codes, -, rfl⟩ | ⟨-, rfl⟩ |
    ⟨w, r, e, rfl⟩
  · exact .inl rfl
  · exact .inl rfl
  · exact .inr (raiseFault_entersFault hcode header s)
  all_goals exact .inl rfl

/-- What a step can do to STATUS.CONFIGURED (R23). -/
theorem step_configured {s t : State} (h : step s = .next t) :
    t.configured = s.configured ∨ (s.hostQueue.head? = some .assertReset ∧ t.configured = false) ∨
      (t.configured = true ∧ ∃ (w : Word) (n : BitVec 16), s.hostQueue.head? = some (.commandWord w) ∧
        s.faulted = false ∧ n ≠ 0#16 ∧ decode (.command (s.cmdAsm ++ [w])) = .ok (.configure n) ∧ t.ppl = n) := by
  rcases step_effect h with ⟨asm, queue, log, w, r, e, rfl⟩ | ⟨w, rest, i, u, hq, hf, hd, hu, rfl⟩ |
    ⟨rest, header, rfl⟩ | ⟨rest, hq, rfl⟩
  · exact .inl rfl
  · rcases exec_configured hu with hkeep | ⟨n, rfl, hn, hset, hppl⟩
    · exact .inl hkeep
    · exact .inr (.inr ⟨hset, w, n, by rw [hq]; rfl, hf, hn, hd, hppl⟩)
  · exact .inl rfl
  · exact .inr (.inl ⟨by rw [hq]; rfl, rfl⟩)

/-- What a step can do to STATUS.FAULT (R23). -/
theorem step_faulted {s t : State} (h : step s = .next t) :
    t.faulted = s.faulted ∨ (s.hostQueue.head? = some .assertReset ∧ t.faulted = false) ∨ EntersFault s t := by
  rcases step_effect h with ⟨asm, queue, log, w, r, e, rfl⟩ | ⟨w, rest, i, u, -, -, -, hu, rfl⟩ | ⟨rest, header, rfl⟩ |
    ⟨rest, hq, rfl⟩
  · exact .inl rfl
  · exact (exec_faulted hu).imp_right .inr
  · exact .inr (.inr (raiseFault_entersFault (by decide) header { s with hostQueue := rest }))
  · exact .inr (.inl ⟨by rw [hq]; rfl, rfl⟩)

/-- Settles O42: the bits of STATUS, and the ways a step can change each flag. -/
theorem statusFlagsAreSetAndCleared : Obligations.StatusFlagsAreSetAndCleared := by
  refine ⟨fun s => ?_, fun s t h hs ht => ?_, fun s t h hs ht => ?_, fun s t h hs ht => ?_, fun s t h hs ht => ?_, rfl⟩
  · have bit := statusWord_getLsbD s
    exact ⟨bit 0, bit 1, fun k hk => (bit k).trans (by rw [if_neg (by omega), if_neg (by omega)]), (bit 1).symm⟩
  · rcases step_configured h with e | ⟨-, e⟩ | ⟨-, hset⟩
    · simp [e, hs] at ht
    · simp [e] at ht
    · exact hset
  · rcases step_faulted h with e | ⟨-, e⟩ | ⟨-, hentry⟩
    · simp [e, hs] at ht
    · simp [e] at ht
    · exact hentry
  · rcases step_configured h with e | ⟨hreset, -⟩ | ⟨hset, -⟩
    · simp [e, hs] at ht
    · exact hreset
    · simp [hset] at ht
  · rcases step_faulted h with e | ⟨hreset, -⟩ | ⟨hset, -⟩
    · simp [e, hs] at ht
    · exact hreset
    · simp [hset] at ht

/-! ## Reset (R44, R270) and the word after it (R55) -/

section
variable {s : State} {w : Word} {rest : List HostAction} (hq : s.hostQueue = .commandWord w :: rest)
  (hf : s.faulted = false)
include hq hf

theorem step_commandWord_incomplete (hc : complete (s.cmdAsm ++ [w]) = false) :
    step s = .next { s with hostQueue := rest, cmdAsm := s.cmdAsm ++ [w] } := by
  rw [step_eq_perform hq]
  simp [State.perform, State.takeCommandWord, hf, hc]

theorem step_commandWord_complete (hc : complete (s.cmdAsm ++ [w]) = true) :
    step s = afterCommand ({ s with hostQueue := rest, cmdAsm := s.cmdAsm ++ [w] } : State).executeCommand := by
  rw [step_eq_perform hq]
  simp [State.perform, State.takeCommandWord, hf, hc]

end

theorem executeCommand_of_ok {s : State} {header : Word} {payload : List Word} {i : Instr}
    (hw : s.cmdAsm = header :: payload) (hd : decodeCommand header payload = .ok i) : s.executeCommand = exec i s := by
  simp only [State.executeCommand, hw, hd]

theorem executeCommand_of_error {s : State} {header : Word} {payload : List Word} {e : DecodeError}
    (hw : s.cmdAsm = header :: payload) (hd : decodeCommand header payload = .error e) :
    s.executeCommand = .next (s.raiseFault .illegalCommand header) := by
  simp only [State.executeCommand, hw, hd]

/-- Only the legal header of EMIT_ACTIVE asks for payload words (R79). -/
theorem decodeCommand_of_commandLength_ne_one {h : Word} (hlen : commandLength h ≠ 1) (payload : List Word) :
    decodeCommand h payload = .ok (.emitActive (imm16 h) payload) := by
  unfold commandLength payloadWords at hlen
  split at hlen
  · rename_i hactive
    simp [decodeCommand, hactive.1, hactive.2]
  · exact absurd rfl hlen

/-- With CMD_ASM empty, the next word is a header: kept if it asks for payload words, and reported if it is illegal. -/
theorem step_header {s : State} {w : Word} {rest : List HostAction} (hq : s.hostQueue = .commandWord w :: rest)
    (hf : s.faulted = false) (hasm : s.cmdAsm = []) :
    ∃ u, step s = .next u ∧ (commandLength w ≠ 1 → u = { s with hostQueue := rest, cmdAsm := [w] }) ∧
      (decodeCommand w [] = .error .illegalCommand → u.faultInfo = w) := by
  have hw : s.cmdAsm ++ [w] = [w] := by rw [hasm]; rfl
  by_cases hlen : commandLength w = 1
  · have hstep := step_commandWord_complete hq hf (by simp [hw, complete, hlen])
    rw [hw] at hstep
    cases hd : decodeCommand w [] with
    | ok i =>
      obtain ⟨u, hu⟩ := exec_answers_next i { s with hostQueue := rest, cmdAsm := [w] }
      rw [executeCommand_of_ok rfl hd, hu] at hstep
      exact ⟨_, hstep, fun hne => absurd hlen hne, nofun⟩
    | error e =>
      rw [executeCommand_of_error rfl hd] at hstep
      exact ⟨_, hstep, fun hne => absurd hlen hne, fun _ => rfl⟩
  · have hstep := step_commandWord_incomplete hq hf (by simp [hw, complete, Ne.symm hlen])
    rw [hw] at hstep
    refine ⟨_, hstep, fun _ => rfl, fun hd => ?_⟩
    rw [decodeCommand_of_commandLength_ne_one hlen] at hd
    cases hd

theorem reset_registerAt (offset : BitVec 8) : State.reset.registerAt offset = 0#32 := by
  have hstatus : State.reset.statusWord = 0#32 := by decide
  have hcode : State.reset.faultCode.bits.setWidth 32 = 0#32 := by decide
  have hppl : State.reset.ppl.setWidth 32 = 0#32 := by decide
  simp only [State.registerAt, hstatus, hcode, hppl]
  simp only [State.reset, ite_self]

/-- Settles O43: the reset action, and the first word after it. -/
theorem resetRestoresEveryRegister : Obligations.ResetRestoresEveryRegister := by
  refine ⟨fun s rest hq => step_eq_perform hq, fun s w rest hq => ?_, reset_registerAt, rfl, rfl, rfl,
    ttOutputs_wordTtNone.symm⟩
  obtain ⟨u, hu, hkept, hillegal⟩ :=
    step_header (s := ({ s with hostQueue := .commandWord w :: rest } : State).resetEngine) rfl rfl rfl
  exact ⟨_, u, step_eq_perform hq, hu, hkept, hillegal⟩

end Sys2Proof.Machine
end

section
/-! SUPPORT. When words are one whole command, and what a step on a command word and the output history make of it. -/

namespace Sys2Proof

/-- Words decode to an instruction exactly when they are a complete command and its decoder answers it (R79, R87). -/
theorem decode_command_eq_ok_iff {h : Word} {rest : List Word} {i : Instr} :
    decode (.command (h :: rest)) = .ok i ↔ complete (h :: rest) = true ∧ decodeCommand h rest = .ok i := by
  refine ⟨fun hd => ?_, fun ⟨hc, hd⟩ => (decode_command_of_complete h rest hc).trans hd⟩
  have hc : complete (h :: rest) = true := by
    have henough : ¬ rest.length < payloadWords h := fun hlt => by simp [decode, decodeV, hlt] at hd
    have hnone_left : rest.drop (payloadWords h) = [] := by
      simp only [decode, decodeV, if_neg henough] at hd
      cases hcmd : decodeCommand h (rest.take (payloadWords h)) with
      | error e => simp [hcmd] at hd
      | ok j =>
        cases hleft : rest.drop (payloadWords h) with
        | nil => rfl
        | cons x xs => simp [hcmd, hleft] at hd
    exact (complete_cons_iff h rest).2 (le_antisymm (List.drop_eq_nil_iff.1 hnone_left) (not_lt.1 henough))
  exact ⟨hc, (decode_command_of_complete h rest hc).symm.trans hd⟩

end Sys2Proof

namespace Sys2Proof.Machine

open Sys2Proof

/-! ## A word at the command port (R55, R56) -/

/-- Settles O9: words that decode are a complete command, which the command port executes (R55). -/
theorem stepRunsTheDecodedCommand : Obligations.StepRunsTheDecodedCommand := by
  intro s w rest i hq hf hd
  obtain ⟨header, payload, hw⟩ := List.exists_cons_of_ne_nil (List.concat_ne_nil w s.cmdAsm)
  rw [hw, decode_command_eq_ok_iff, ← hw] at hd
  obtain ⟨hc, hcmd⟩ := hd
  rw [step_commandWord_complete hq hf hc, executeCommand_of_ok hw hcmd]

/-- What a step on a command word can do: keep the word, run the command it ends, or fault on an illegal header. -/
theorem step_commandWord_cases {s t : State} {w : Word} {rest : List HostAction}
    (hq : s.hostQueue = .commandWord w :: rest) (h : step s = .next t) :
    s.faulted = false ∧
      (t = { s with hostQueue := rest, cmdAsm := s.cmdAsm ++ [w] } ∨
        (∃ i u, decode (.command (s.cmdAsm ++ [w])) = .ok i ∧
          exec i { s with hostQueue := rest, cmdAsm := s.cmdAsm ++ [w] } = .next u ∧ t = { u with cmdAsm := [] }) ∨
        ∃ header, t = ({ s with hostQueue := rest } : State).raiseFault .illegalCommand header) := by
  rcases step_cases h with ⟨hq', -⟩ | ⟨w', rest', hq', hf, hword⟩ | ⟨tw, rest', hq', -⟩ | ⟨offset, rest', hq', -⟩ |
    ⟨rest', hq', -⟩
  · cases hq.symm.trans hq'
  · cases hq.symm.trans hq'
    refine ⟨hf, ?_⟩
    rcases hword with ⟨-, rfl⟩ | ⟨hc, header, payload, hw, ⟨i, u, hcmd, hu, rfl⟩ | ⟨-, rfl⟩⟩
    · exact .inl rfl
    · rw [hw] at hc ⊢
      exact .inr (.inl ⟨i, u, decode_command_eq_ok_iff.2 ⟨hc, hcmd⟩, hu, rfl⟩)
    · exact .inr (.inr ⟨header, rfl⟩)
  all_goals cases hq.symm.trans hq'

/-- Settles O13: a word that ends a command leaves CMD_ASM empty, and any other word is only kept (R55). -/
theorem partialCommandIsInvisible : Obligations.PartialCommandIsInvisible := by
  intro s t w rest hq h hasm
  obtain ⟨-, rfl | ⟨i, u, -, -, rfl⟩ | ⟨header, rfl⟩⟩ := step_commandWord_cases hq h
  · exact ⟨rfl, fun _ => rfl⟩
  · exact absurd rfl hasm
  · exact absurd rfl hasm

/-! ## The output history (R57) -/

/-- What an instruction can do to the history: nothing, the handoff, or a fault entry. -/
theorem exec_history {i : Instr} {s t : State} (h : exec i s = .next t) :
    t.history = s.history ∨ (i = .bufHandoff ∧ t = s.handOff) ∨ ∃ code header, t = s.raiseFault code header := by
  rcases exec_cases h with ⟨-, rfl⟩ | ⟨n, -, -, -, rfl⟩ | ⟨code, header, -, rfl⟩ | ⟨codes, -, rfl⟩ | ⟨hi, rfl⟩ |
    ⟨w, r, e, rfl⟩
  · exact .inl rfl
  · exact .inl rfl
  · exact .inr (.inr ⟨code, header, rfl⟩)
  · exact .inl rfl
  · exact .inr (.inl ⟨hi, rfl⟩)
  · exact .inl rfl

/-- Settles O35: only a command word adds to the history, by a handoff or by the fault it ends in. -/
theorem historyOnlyGrows : Obligations.HistoryOnlyGrows := by
  intro s t h
  rcases step_cases h with ⟨-, rfl⟩ | ⟨w, rest, hq, -⟩ | ⟨w, rest, hq, -⟩ | ⟨offset, rest, -, -, rfl⟩ | ⟨rest, -, rfl⟩
  · exact .inl rfl
  · obtain ⟨hf, rfl | ⟨i, u, hd, hu, rfl⟩ | ⟨header, rfl⟩⟩ := step_commandWord_cases hq h
    · exact .inl rfl
    · rcases exec_history hu with hkeep | ⟨rfl, rfl⟩ | ⟨code, header, rfl⟩
      · exact .inl hkeep
      · exact .inr (.inl ⟨rfl, rfl, rfl, w, by rw [hq]; rfl, hd⟩)
      · exact .inr (.inr ⟨code, header, rfl, hf, rfl, rfl, rfl⟩)
    · exact .inr (.inr ⟨.illegalCommand, header, rfl, hf, rfl, rfl, rfl⟩)
  · rw [step_teletextWord hq] at h
    cases h
    exact .inl rfl
  · exact .inl rfl
  · exact .inl rfl

end Sys2Proof.Machine
end

section
/-! SUPPORT. The two decoders and the encoder are inverse to each other, on both ports. -/

namespace Sys2Proof

/-! ## The fields of a word as numbers (R71-R75, R81-R83) -/

section
variable (w : Word)

theorem opc_toNat : (opc w).toNat = w.toNat / 2 ^ 24 := by
  have := w.isLt
  rw [opc, BitVec.extractLsb'_toNat, Nat.shiftRight_eq_div_pow]
  omega

theorem body_toNat : (body w).toNat = w.toNat % 2 ^ 24 := BitVec.extractLsb'_toNat ..

theorem imm16_toNat : (imm16 w).toNat = w.toNat % 2 ^ 16 := BitVec.extractLsb'_toNat ..

theorem reservedByte_toNat : (reservedByte w).toNat = w.toNat / 2 ^ 16 % 2 ^ 8 := by
  rw [reservedByte, BitVec.extractLsb'_toNat, Nat.shiftRight_eq_div_pow]

theorem pwsel_toNat : (pwsel w).toNat = w.toNat / 2 ^ 22 % 2 ^ 2 := by
  rw [pwsel, BitVec.extractLsb'_toNat, Nat.shiftRight_eq_div_pow]

theorem repsField_toNat : (repsField w).toNat = w.toNat / 2 ^ 16 % 2 ^ 6 := by
  rw [repsField, BitVec.extractLsb'_toNat, Nat.shiftRight_eq_div_pow]

/-- The number of a concatenation. -/
theorem append_toNat {n m : Nat} (x : BitVec n) (y : BitVec m) : (x ++ y).toNat = x.toNat * 2 ^ m + y.toNat := by
  rw [BitVec.toNat_append, ← Nat.shiftLeft_add_eq_or_of_lt y.isLt, Nat.shiftLeft_eq]

theorem headerV0_toNat (o : BitVec 8) : (headerV0 o).toNat = o.toNat * 2 ^ 24 := by
  rw [headerV0, append_toNat, BitVec.toNat_ofNat]
  omega

theorem headerImm_toNat (o : BitVec 8) (imm : BitVec 16) :
    (headerImm o imm).toNat = o.toNat * 2 ^ 24 + imm.toNat := by
  rw [headerImm, append_toNat, append_toNat, BitVec.toNat_ofNat]
  omega

theorem headerVS_toNat (sel : BitVec 2) (reps : BitVec 6) (pw : BitVec 16) :
    (headerVS sel reps pw).toNat = 0x10 * 2 ^ 24 + sel.toNat * 2 ^ 22 + reps.toNat * 2 ^ 16 + pw.toNat := by
  rw [headerVS, append_toNat, append_toNat, append_toNat, BitVec.toNat_ofNat]
  omega

theorem ttWord_toNat (top : BitVec 4) (arg : BitVec 8) : (ttWord top arg).toNat = top.toNat * 2 ^ 12 + arg.toNat := by
  rw [ttWord, append_toNat, append_toNat, BitVec.toNat_ofNat]
  omega

theorem wordTtParity_toNat (byte : BitVec 8) : (wordTtParity byte).toNat = 0x1000 + byte.toNat := by
  rw [wordTtParity, ttWord_toNat, BitVec.toNat_ofNat]
  omega

theorem wordTtHamming_toNat (nibble : BitVec 4) : (wordTtHamming nibble).toNat = 0x2000 + nibble.toNat := by
  rw [wordTtHamming, ttWord_toNat, append_toNat, BitVec.toNat_ofNat, BitVec.toNat_ofNat]
  omega

theorem wordTtPktaddr_toNat (mag : BitVec 3) (pkt : BitVec 5) :
    (wordTtPktaddr mag pkt).toNat = 0x3000 + pkt.toNat * 8 + mag.toNat := by
  rw [wordTtPktaddr, ttWord_toNat, append_toNat, BitVec.toNat_ofNat]
  omega

end

/-! ## A header word is its fields (R71-R75) -/

section
variable {w : Word}

theorem eq_headerV0 (h : body w = 0#24) : w = headerV0 (opc w) := by
  have hbody := congrArg BitVec.toNat h
  rw [body_toNat] at hbody
  apply BitVec.eq_of_toNat_eq
  rw [headerV0_toNat, opc_toNat]
  simp only [BitVec.toNat_ofNat] at hbody
  omega

theorem eq_headerImm (h : reservedByte w = 0#8) : w = headerImm (opc w) (imm16 w) := by
  have hreserved := congrArg BitVec.toNat h
  rw [reservedByte_toNat] at hreserved
  apply BitVec.eq_of_toNat_eq
  rw [headerImm_toNat, opc_toNat, imm16_toNat]
  simp only [BitVec.toNat_ofNat] at hreserved
  omega

theorem eq_headerVS (h : opc w = 0x10#8) : w = headerVS (pwsel w) (repsField w) (imm16 w) := by
  have hopc := congrArg BitVec.toNat h
  rw [opc_toNat] at hopc
  apply BitVec.eq_of_toNat_eq
  rw [headerVS_toNat, pwsel_toNat, repsField_toNat, imm16_toNat]
  simp only [BitVec.toNat_ofNat] at hopc
  omega

end

/-! ## The command port (R76, R87) -/

/-- The forms of a legal header, each with the instruction it stands for (R76): EMIT_ACTIVE takes the payload. -/
inductive CommandForm (payload : List Word) : Word → Instr → Prop
  | nop : CommandForm payload headerNop .nop
  | configure (ppl : BitVec 16) : CommandForm payload (headerConfigure ppl) (.configure ppl)
  | emitBroad (reps : BitVec 6) : CommandForm payload (headerEmitBroad reps) (.emitBroad reps)
  | emitShort (reps : BitVec 6) : CommandForm payload (headerEmitShort reps) (.emitShort reps)
  | emitPulse (reps : BitVec 6) (pw : BitVec 16) : CommandForm payload (headerEmitPulse reps pw) (.emitPulse reps pw)
  | emitBlank : CommandForm payload headerEmitBlank .emitBlank
  | emitSynced : CommandForm payload headerEmitSynced .emitSynced
  | emitActive (len : BitVec 16) : CommandForm payload (headerEmitActive len) (.emitActive len payload)
  | bufHandoff : CommandForm payload headerBufHandoff .bufHandoff

theorem CommandForm.decodeCommand_eq {payload : List Word} {h : Word} {i : Instr} (hi : CommandForm payload h i) :
    decodeCommand h payload = .ok i := by
  cases hi with
  | nop => rfl
  | configure ppl => simp [decodeCommand, headerConfigure]
  | emitBroad reps => simp [decodeCommand, headerEmitBroad]
  | emitShort reps => simp [decodeCommand, headerEmitShort]
  | emitPulse reps pw => simp [decodeCommand, headerEmitPulse]
  | emitBlank => rfl
  | emitSynced => rfl
  | emitActive len => simp [decodeCommand, headerEmitActive]
  | bufHandoff => rfl

section
variable {w : Word} (payload : List Word)

theorem commandForm_nop (ho : opc w = 0x00#8) (hb : body w = 0#24) : CommandForm payload w .nop := by
  rw [eq_headerV0 hb, ho]; exact .nop

theorem commandForm_configure (ho : opc w = 0x01#8) (hr : reservedByte w = 0#8) :
    CommandForm payload w (.configure (imm16 w)) := by
  have := CommandForm.configure (payload := payload) (imm16 w)
  rwa [headerConfigure, ← ho, ← eq_headerImm hr] at this

theorem commandForm_emitBroad (ho : opc w = 0x10#8) (hs : pwsel w = 0#2) (hi : imm16 w = 0#16) :
    CommandForm payload w (.emitBroad (repsField w)) := by
  have := CommandForm.emitBroad (payload := payload) (repsField w)
  rwa [headerEmitBroad, ← hs, ← hi, ← eq_headerVS ho] at this

theorem commandForm_emitShort (ho : opc w = 0x10#8) (hs : pwsel w = 1#2) (hi : imm16 w = 0#16) :
    CommandForm payload w (.emitShort (repsField w)) := by
  have := CommandForm.emitShort (payload := payload) (repsField w)
  rwa [headerEmitShort, ← hs, ← hi, ← eq_headerVS ho] at this

theorem commandForm_emitPulse (ho : opc w = 0x10#8) (hs : pwsel w = 2#2) :
    CommandForm payload w (.emitPulse (repsField w) (imm16 w)) := by
  have := CommandForm.emitPulse (payload := payload) (repsField w) (imm16 w)
  rwa [headerEmitPulse, ← hs, ← eq_headerVS ho] at this

theorem commandForm_emitBlank (ho : opc w = 0x11#8) (hb : body w = 0#24) : CommandForm payload w .emitBlank := by
  rw [eq_headerV0 hb, ho]; exact .emitBlank

theorem commandForm_emitSynced (ho : opc w = 0x12#8) (hb : body w = 0#24) : CommandForm payload w .emitSynced := by
  rw [eq_headerV0 hb, ho]; exact .emitSynced

theorem commandForm_emitActive (ho : opc w = 0x13#8) (hr : reservedByte w = 0#8) :
    CommandForm payload w (.emitActive (imm16 w) payload) := by
  have := CommandForm.emitActive (payload := payload) (imm16 w)
  rwa [headerEmitActive, ← ho, ← eq_headerImm hr] at this

theorem commandForm_bufHandoff (ho : opc w = 0x30#8) (hb : body w = 0#24) : CommandForm payload w .bufHandoff := by
  rw [eq_headerV0 hb, ho]; exact .bufHandoff

end

/-- The command decoder answers exactly the forms of the table (R87). -/
theorem decodeCommand_eq_ok_iff {h : Word} {payload : List Word} {i : Instr} :
    decodeCommand h payload = .ok i ↔ CommandForm payload h i := by
  refine ⟨fun hd => ?_, CommandForm.decodeCommand_eq⟩
  unfold decodeCommand at hd
  split_ifs at hd with o0 b o1 r o10 s0 p0 s1 p1 s2 o11 b o12 b o13 r o30 b <;> cases hd
  · exact commandForm_nop payload o0 b
  · exact commandForm_configure payload o1 r
  · exact commandForm_emitBroad payload o10 s0 p0
  · exact commandForm_emitShort payload o10 s1 p1
  · exact commandForm_emitPulse payload o10 s2
  · exact commandForm_emitBlank payload o11 b
  · exact commandForm_emitSynced payload o12 b
  · exact commandForm_emitActive payload o13 r
  · exact commandForm_bufHandoff payload o30 b

/-- An instruction's words are a header of its form and its payload. -/
theorem commandForm_of_encode {h : Word} {payload : List Word} {i : Instr} (he : encode i = .command (h :: payload)) :
    CommandForm payload h i := by
  cases i <;> cases he
  case nop => exact .nop
  case configure ppl => exact .configure ppl
  case emitBroad reps => exact .emitBroad reps
  case emitShort reps => exact .emitShort reps
  case emitPulse reps pw => exact .emitPulse reps pw
  case emitBlank => exact .emitBlank
  case emitSynced => exact .emitSynced
  case emitActive len => exact .emitActive len
  case bufHandoff => exact .bufHandoff

/-- A header that asks for no payload is a complete command exactly when it is the only word (R79). -/
theorem complete_iff_of_no_payload {h : Word} {i : Instr} (payload : List Word) (h0 : payloadWords h = 0)
    (he : encode i = .command [h]) (hwf : i.WellFormed) :
    complete (h :: payload) = true ↔ encode i = .command (h :: payload) ∧ i.WellFormed := by
  rw [complete_cons_iff, h0, List.length_eq_zero_iff, he]
  simp [hwf, eq_comm]

/-- The words of a form are a complete command exactly when they are the encoding of a well-formed instruction (R79). -/
theorem CommandForm.complete_iff {h : Word} {payload : List Word} {i : Instr} (hi : CommandForm payload h i) :
    complete (h :: payload) = true ↔ encode i = .command (h :: payload) ∧ i.WellFormed := by
  cases hi with
  | nop => exact complete_iff_of_no_payload payload (payloadWords_headerV0 _ (by decide)) rfl rfl
  | configure ppl => exact complete_iff_of_no_payload payload (payloadWords_headerConfigure ppl) rfl rfl
  | emitBroad reps => exact complete_iff_of_no_payload payload (payloadWords_headerVS _ _ _) rfl rfl
  | emitShort reps => exact complete_iff_of_no_payload payload (payloadWords_headerVS _ _ _) rfl rfl
  | emitPulse reps pw => exact complete_iff_of_no_payload payload (payloadWords_headerVS _ _ _) rfl rfl
  | emitBlank => exact complete_iff_of_no_payload payload (payloadWords_headerV0 _ (by decide)) rfl rfl
  | emitSynced => exact complete_iff_of_no_payload payload (payloadWords_headerV0 _ (by decide)) rfl rfl
  | emitActive len =>
    rw [complete_cons_iff, payloadWords_headerEmitActive]
    exact ⟨fun hlen => ⟨rfl, beq_iff_eq.2 hlen⟩, fun hwf => beq_iff_eq.1 hwf.2⟩
  | bufHandoff => exact complete_iff_of_no_payload payload (payloadWords_headerV0 _ (by decide)) rfl rfl

/-! ## Both ports -/

/-- The port decoder answers exactly the words of the operations (R83). -/
theorem decodeT_eq_ok_iff {t : TtWord} {i : Instr} : decodeT t = .ok i ↔ encode i = .teletext t := by
  refine ⟨encode_of_decodeT, fun he => ?_⟩
  cases i <;> cases he
  case ttNone => rfl
  case ttParity byte => exact decodeT_wordTtParity byte
  case ttHamming nibble => exact decodeT_wordTtHamming nibble
  case ttPktaddr mag pkt => exact decodeT_wordTtPktaddr mag pkt

/-- Decoding is the inverse of encoding, on the well-formed instructions and on no others. -/
theorem decode_eq_ok_iff {e : Encoded} {i : Instr} : decode e = .ok i ↔ encode i = e ∧ i.WellFormed := by
  cases e with
  | teletext t =>
    rw [decode, decodeT_eq_ok_iff, iff_self_and]
    intro he
    cases i <;> cases he <;> rfl
  | command ws =>
    cases ws with
    | nil =>
      refine ⟨nofun, fun ⟨he, _⟩ => ?_⟩
      cases i <;> cases he
    | cons h payload =>
      rw [decode_command_eq_ok_iff, decodeCommand_eq_ok_iff]
      exact ⟨fun ⟨hc, hi⟩ => hi.complete_iff.1 hc,
        fun hi => ⟨(commandForm_of_encode hi.1).complete_iff.2 hi, commandForm_of_encode hi.1⟩⟩

/-- Settles O1, from the equivalence of the two directions. -/
theorem decodeEncodeRoundTrip : Obligations.DecodeEncodeRoundTrip :=
  fun _ hwf => decode_eq_ok_iff.2 ⟨rfl, hwf⟩

/-- Settles O2, from the same equivalence. -/
theorem encodeDecodeGivesTheWords : Obligations.EncodeDecodeGivesTheWords :=
  fun _ _ hd => decode_eq_ok_iff.1 hd

end Sys2Proof
end

section
/-! SUPPORT. The mask and match rows (R77, R83) as conditions on a word's number: a row selects exactly the words that
decode to its mnemonic, and the words of no row are the illegal ones (R78, R84). -/

namespace Sys2Proof

/-! ## Masks -/

/-- A mask of the bits from k up compares the quotients by 2^k. -/
theorem and_highMask_eq_iff {n : Nat} {w v : BitVec n} (k : Nat) (hv : v.toNat % 2 ^ k = 0) :
    w &&& (BitVec.allOnes n <<< k) = v ↔ w.toNat / 2 ^ k = v.toNat / 2 ^ k := by
  have hle : w.toNat / 2 ^ k * 2 ^ k < 2 ^ n := (Nat.div_mul_le_self _ _).trans_lt w.isLt
  rw [← BitVec.shiftLeft_ushiftRight, ← BitVec.toNat_inj, BitVec.toNat_shiftLeft, BitVec.toNat_ushiftRight,
    Nat.shiftLeft_eq, Nat.shiftRight_eq_div_pow, Nat.mod_eq_of_lt hle, eq_comm, eq_comm (a := w.toNat / _),
    Nat.div_eq_iff_eq_mul_left (Nat.two_pow_pos k) (Nat.dvd_of_mod_eq_zero hv)]

/-- A mask of two parts compares each part. -/
theorem and_or_eq_iff {n : Nat} {w v m m' : BitVec n} (hv : v &&& (m ||| m') = v) :
    w &&& (m ||| m') = v ↔ w &&& m = v &&& m ∧ w &&& m' = v &&& m' := by
  have part (a b : BitVec n) : (a ||| b) &&& a = a := by
    ext i hi
    simpa using Or.inl
  constructor
  · rintro rfl
    rw [BitVec.and_assoc, part, BitVec.and_assoc, BitVec.or_comm, part]
    exact ⟨rfl, rfl⟩
  · rintro ⟨h, h'⟩
    rw [BitVec.and_or_distrib_left, h, h', ← BitVec.and_or_distrib_left, hv]

section
variable {w v : Word} {t u : TtWord}

/-- The four masks of R77. -/
theorem fullMask_eq_iff : w &&& 0xFFFFFFFF#32 = v ↔ w.toNat = v.toNat := by
  have := and_highMask_eq_iff (w := w) (v := v) 0 (Nat.mod_one _)
  rwa [Nat.pow_zero, Nat.div_one, Nat.div_one] at this

theorem immMask_eq_iff (hv : v.toNat % 2 ^ 16 = 0) :
    w &&& 0xFFFF0000#32 = v ↔ w.toNat / 2 ^ 16 = v.toNat / 2 ^ 16 := and_highMask_eq_iff 16 hv

theorem selMask_eq_iff (hv : v.toNat % 2 ^ 22 = 0) :
    w &&& 0xFFC00000#32 = v ↔ w.toNat / 2 ^ 22 = v.toNat / 2 ^ 22 := and_highMask_eq_iff 22 hv

theorem and_lowMask_toNat : (w &&& 0xFFFF#32).toNat = w.toNat % 2 ^ 16 :=
  (BitVec.toNat_and ..).trans (Nat.and_two_pow_sub_one_eq_mod _ 16)

theorem selImmMask_eq_iff (hv : v.toNat % 2 ^ 22 = 0) :
    w &&& 0xFFC0FFFF#32 = v ↔ w.toNat / 2 ^ 22 = v.toNat / 2 ^ 22 ∧ w.toNat % 2 ^ 16 = 0 := by
  have hhigh : v &&& 0xFFC00000#32 = v := (selMask_eq_iff hv).2 rfl
  have hlow : v &&& 0xFFFF#32 = 0#32 := by
    apply BitVec.eq_of_toNat_eq
    rw [and_lowMask_toNat, BitVec.toNat_ofNat]
    omega
  have hparts := and_or_eq_iff (w := w) (v := v) (m := 0xFFC00000#32) (m' := 0xFFFF#32)
    (by rw [BitVec.and_or_distrib_left, hhigh, hlow, BitVec.or_zero])
  rwa [hhigh, hlow, selMask_eq_iff hv, ← BitVec.toNat_inj (x := w &&& 0xFFFF#32), and_lowMask_toNat] at hparts

/-- The three masks of R83. -/
theorem fullMaskT_eq_iff : t &&& 0xFFFF#16 = u ↔ t.toNat = u.toNat := by
  have := and_highMask_eq_iff (w := t) (v := u) 0 (Nat.mod_one _)
  rwa [Nat.pow_zero, Nat.div_one, Nat.div_one] at this

theorem argMask_eq_iff (hu : u.toNat % 2 ^ 8 = 0) :
    t &&& 0xFF00#16 = u ↔ t.toNat / 2 ^ 8 = u.toNat / 2 ^ 8 := and_highMask_eq_iff 8 hu

theorem nibbleMask_eq_iff (hu : u.toNat % 2 ^ 4 = 0) :
    t &&& 0xFFF0#16 = u ↔ t.toNat / 2 ^ 4 = u.toNat / 2 ^ 4 := and_highMask_eq_iff 4 hu

end

/-! ## The rows of the command port (R77) -/

/-- No two rows have one mnemonic. -/
theorem eq_of_mem_rowsV_of_mnemonic_eq {r r' : EncodingRow 32} (hr : r ∈ rowsV) (hr' : r' ∈ rowsV)
    (h : r.mnemonic = r'.mnemonic) : r = r' :=
  List.inj_on_of_nodup_map (by decide : (rowsV.map EncodingRow.mnemonic).Nodup) hr hr' h

theorem headerImm_and_immMask (o : BitVec 8) (imm : BitVec 16) :
    headerImm o imm &&& 0xFFFF0000#32 = headerImm o 0#16 := by
  have hzero : (headerImm o 0#16).toNat = o.toNat * 2 ^ 24 := by simpa using headerImm_toNat o 0#16
  rw [immMask_eq_iff (by omega), headerImm_toNat]
  omega

theorem headerVS_and_selMask (sel : BitVec 2) (reps : BitVec 6) (pw : BitVec 16) :
    headerVS sel reps pw &&& 0xFFC00000#32 = headerVS sel 0#6 0#16 := by
  have hzero : (headerVS sel 0#6 0#16).toNat = 0x10 * 2 ^ 24 + sel.toNat * 2 ^ 22 := by
    simpa using headerVS_toNat sel 0#6 0#16
  rw [selMask_eq_iff (by omega), headerVS_toNat]
  omega

theorem headerVS_and_selImmMask (sel : BitVec 2) (reps : BitVec 6) :
    headerVS sel reps 0#16 &&& 0xFFC0FFFF#32 = headerVS sel 0#6 0#16 := by
  have hzero : (headerVS sel 0#6 0#16).toNat = 0x10 * 2 ^ 24 + sel.toNat * 2 ^ 22 := by
    simpa using headerVS_toNat sel 0#6 0#16
  have hreps : (headerVS sel reps 0#16).toNat = 0x10 * 2 ^ 24 + sel.toNat * 2 ^ 22 + reps.toNat * 2 ^ 16 := by
    simpa using headerVS_toNat sel reps 0#16
  rw [selImmMask_eq_iff (by omega)]
  omega

/-- A legal header is of the row of its mnemonic. -/
theorem CommandForm.exists_row {h : Word} {payload : List Word} {i : Instr} (hi : CommandForm payload h i) :
    ∃ r ∈ rowsV, r.mnemonic = i.mnemonic ∧ h &&& r.mask = r.val := by
  cases hi with
  | nop => exact ⟨rowsV[0], List.getElem_mem _, rfl, by decide⟩
  | configure ppl => exact ⟨rowsV[1], List.getElem_mem _, rfl, headerImm_and_immMask _ ppl⟩
  | emitBroad reps => exact ⟨rowsV[2], List.getElem_mem _, rfl, headerVS_and_selImmMask _ reps⟩
  | emitShort reps => exact ⟨rowsV[3], List.getElem_mem _, rfl, headerVS_and_selImmMask _ reps⟩
  | emitPulse reps pw => exact ⟨rowsV[4], List.getElem_mem _, rfl, headerVS_and_selMask _ reps pw⟩
  | emitBlank => exact ⟨rowsV[5], List.getElem_mem _, rfl, by decide⟩
  | emitSynced => exact ⟨rowsV[6], List.getElem_mem _, rfl, by decide⟩
  | emitActive len => exact ⟨rowsV[7], List.getElem_mem _, rfl, headerImm_and_immMask _ len⟩
  | bufHandoff => exact ⟨rowsV[8], List.getElem_mem _, rfl, by decide⟩

/-- A field that holds the number k is the literal k. -/
theorem eq_ofNat_of_toNat_eq {n k : Nat} {x : BitVec n} (h : x.toNat = k) : x = BitVec.ofNat n k :=
  (BitVec.toNat_eq_nat.1 h).2

/-- A header of a row is legal, with the row's mnemonic. -/
theorem exists_commandForm_of_row {w : Word} (payload : List Word) {r : EncodingRow 32} (hr : r ∈ rowsV)
    (hw : w &&& r.mask = r.val) : ∃ i, CommandForm payload w i ∧ i.mnemonic = r.mnemonic := by
  have hopc {k : Nat} (h : w.toNat / 2 ^ 24 = k) : opc w = BitVec.ofNat 8 k :=
    eq_ofNat_of_toNat_eq ((opc_toNat w).trans h)
  have hbody {k : Nat} (h : w.toNat % 2 ^ 24 = k) : body w = BitVec.ofNat 24 k :=
    eq_ofNat_of_toNat_eq ((body_toNat w).trans h)
  have hreserved {k : Nat} (h : w.toNat / 2 ^ 16 % 2 ^ 8 = k) : reservedByte w = BitVec.ofNat 8 k :=
    eq_ofNat_of_toNat_eq ((reservedByte_toNat w).trans h)
  have hsel {k : Nat} (h : w.toNat / 2 ^ 22 % 2 ^ 2 = k) : pwsel w = BitVec.ofNat 2 k :=
    eq_ofNat_of_toNat_eq ((pwsel_toNat w).trans h)
  have himm {k : Nat} (h : w.toNat % 2 ^ 16 = k) : imm16 w = BitVec.ofNat 16 k :=
    eq_ofNat_of_toNat_eq ((imm16_toNat w).trans h)
  simp only [rowsV, List.mem_cons, List.not_mem_nil, or_false] at hr
  rcases hr with rfl | rfl | rfl | rfl | rfl | rfl | rfl | rfl | rfl <;>
    simp only [fullMask_eq_iff, immMask_eq_iff, selMask_eq_iff, selImmMask_eq_iff, BitVec.toNat_ofNat, Nat.reduceMod,
      Nat.reducePow, Nat.reduceDiv] at hw
  · exact ⟨_, commandForm_nop payload (hopc (by omega)) (hbody (by omega)), rfl⟩
  · exact ⟨_, commandForm_configure payload (hopc (by omega)) (hreserved (by omega)), rfl⟩
  · exact ⟨_, commandForm_emitBroad payload (hopc (by omega)) (hsel (by omega)) (himm (by omega)), rfl⟩
  · exact ⟨_, commandForm_emitShort payload (hopc (by omega)) (hsel (by omega)) (himm (by omega)), rfl⟩
  · exact ⟨_, commandForm_emitPulse payload (hopc (by omega)) (hsel (by omega)), rfl⟩
  · exact ⟨_, commandForm_emitBlank payload (hopc (by omega)) (hbody (by omega)), rfl⟩
  · exact ⟨_, commandForm_emitSynced payload (hopc (by omega)) (hbody (by omega)), rfl⟩
  · exact ⟨_, commandForm_emitActive payload (hopc (by omega)) (hreserved (by omega)), rfl⟩
  · exact ⟨_, commandForm_bufHandoff payload (hopc (by omega)) (hbody (by omega)), rfl⟩

/-- R77: a row selects a header exactly when it decodes to the row's mnemonic. -/
theorem row_selects_iff {w : Word} (payload : List Word) {r : EncodingRow 32} (hr : r ∈ rowsV) :
    w &&& r.mask = r.val ↔ ∃ i, decodeCommand w payload = .ok i ∧ i.mnemonic = r.mnemonic := by
  simp only [decodeCommand_eq_ok_iff]
  refine ⟨exists_commandForm_of_row payload hr, fun ⟨i, hi, hname⟩ => ?_⟩
  obtain ⟨r', hr', hname', hw⟩ := hi.exists_row
  rwa [eq_of_mem_rowsV_of_mnemonic_eq hr hr' (hname.symm.trans hname'.symm)]

/-- A header of no row is illegal (R78). -/
theorem decodeCommand_of_no_row {w : Word} (payload : List Word) (h : ∀ r ∈ rowsV, ¬ w &&& r.mask = r.val) :
    decodeCommand w payload = .error .illegalCommand := by
  cases hd : decodeCommand w payload with
  | ok i =>
    obtain ⟨r, hr, -, hw⟩ := (decodeCommand_eq_ok_iff.1 hd).exists_row
    exact absurd hw (h r hr)
  | error e => rw [Machine.decodeCommand_error hd]

/-- Settles O3: two rows that select one header have the mnemonic it decodes to. -/
theorem headerSelectsByMaskAndMatch : Obligations.HeaderSelectsByMaskAndMatch := by
  refine ⟨fun h payload r hr => row_selects_iff payload hr, fun h r hr r' hr' hw hw' => ?_,
    fun h payload i hd => ?_⟩
  · obtain ⟨i, hi, hname⟩ := (row_selects_iff [] hr).1 hw
    obtain ⟨i', hi', hname'⟩ := (row_selects_iff [] hr').1 hw'
    cases hi.symm.trans hi'
    exact eq_of_mem_rowsV_of_mnemonic_eq hr hr' (hname.symm.trans hname')
  · cases decodeCommand_eq_ok_iff.1 hd with
    | configure ppl => simp only [← imm16_toNat, headerConfigure, imm16_headerImm]
    | emitBroad reps => simp only [← repsField_toNat, headerEmitBroad, repsField_headerVS]
    | emitShort reps => simp only [← repsField_toNat, headerEmitShort, repsField_headerVS]
    | emitPulse reps pw =>
      simp only [← repsField_toNat, ← imm16_toNat, headerEmitPulse, repsField_headerVS, imm16_headerVS, and_self]
    | emitActive len => simp only [← imm16_toNat, headerEmitActive, imm16_headerImm, and_self]
    | _ => trivial

end Sys2Proof
end

section
/-! SUPPORT. What the ports make of a word: the length a header fixes, the words of no row, and the table words that run
(R78, R79, R84; log 2). -/

namespace Sys2Proof.Machine

open Sys2Proof

/-! ## A command's length (R79) -/

/-- Settles O5: only EMIT_ACTIVE's headers ask for payload, and the port keeps the words of a shorter list. -/
theorem commandLengthIsFixedByHeader : Obligations.CommandLengthIsFixedByHeader := by
  refine ⟨fun h payload len p hd => ?_, fun h payload hd => ?_, by decide, by decide, fun h rest => beq_iff_eq,
    fun s w h words rest hq hf hw hlen => ?_⟩
  · cases decodeCommand_eq_ok_iff.1 hd
    rw [commandLength, payloadWords_headerEmitActive, payloadWordsOfLen]
  · by_contra hlen
    exact hd _ _ (decodeCommand_of_commandLength_ne_one hlen payload)
  · refine step_commandWord_incomplete hq hf ?_
    rw [hw]
    exact beq_eq_false_iff_ne.2 hlen

/-! ## Illegal headers (R78) -/

/-- An illegal header is a whole command (R79). -/
theorem commandLength_of_decodeCommand_error {h : Word} {payload : List Word} {e : DecodeError}
    (hd : decodeCommand h payload = .error e) : commandLength h = 1 := by
  by_contra hlen
  rw [decodeCommand_of_commandLength_ne_one hlen] at hd
  cases hd

/-- The words of no row, by opcode (R78 a-d). -/
theorem no_row_iff (w : Word) : (∀ r ∈ rowsV, ¬ w &&& r.mask = r.val) ↔
    (w.toNat / 2 ^ 24 ∉ [0x00, 0x01, 0x10, 0x11, 0x12, 0x13, 0x30] ∨
      (w.toNat / 2 ^ 24 ∈ [0x00, 0x11, 0x12, 0x30] ∧ w.toNat % 2 ^ 24 ≠ 0) ∨
      (w.toNat / 2 ^ 24 ∈ [0x01, 0x13] ∧ w.toNat / 2 ^ 16 % 2 ^ 8 ≠ 0) ∨
      (w.toNat / 2 ^ 24 = 0x10 ∧ w.toNat / 2 ^ 22 % 4 = 3) ∨
      (w.toNat / 2 ^ 24 = 0x10 ∧ w.toNat / 2 ^ 22 % 4 ≤ 1 ∧ w.toNat % 2 ^ 16 ≠ 0)) := by
  simp only [rowsV, List.mem_cons, List.not_mem_nil, or_false, forall_eq_or_imp, forall_eq, fullMask_eq_iff,
    immMask_eq_iff, selMask_eq_iff, selImmMask_eq_iff, BitVec.toNat_ofNat, Nat.reduceMod, Nat.reducePow, Nat.reduceDiv]
  constructor
  · rintro ⟨hnop, hconfigure, hbroad, hshort, hpulse, hblank, hsynced, hactive, hhandoff⟩
    by_cases hlegal : w.toNat / 16777216 = 0 ∨ w.toNat / 16777216 = 1 ∨ w.toNat / 16777216 = 16 ∨
      w.toNat / 16777216 = 17 ∨ w.toNat / 16777216 = 18 ∨ w.toNat / 16777216 = 19 ∨ w.toNat / 16777216 = 48
    case neg => exact .inl hlegal
    rcases hlegal with h | h | h | h | h | h | h
    · exact .inr (.inl ⟨.inl h, by omega⟩)
    · exact .inr (.inr (.inl ⟨.inl h, by omega⟩))
    · exact .inr (.inr (.inr (by omega)))
    · exact .inr (.inl ⟨.inr (.inl h), by omega⟩)
    · exact .inr (.inl ⟨.inr (.inr (.inl h)), by omega⟩)
    · exact .inr (.inr (.inl ⟨.inr h, by omega⟩))
    · exact .inr (.inl ⟨.inr (.inr (.inr h)), by omega⟩)
  · rintro (h | ⟨h, hbody⟩ | ⟨h, hreserved⟩ | ⟨h, hsel⟩ | ⟨h, hsel, himm⟩) <;> omega

/-- Settles O4: an illegal header is a whole command, and the command port reports it. -/
theorem illegalHeaderFaultsAtOnce : Obligations.IllegalHeaderFaultsAtOnce := by
  refine ⟨fun s w rest hq hf hasm hrow => ?_, no_row_iff, fun payload => rfl⟩
  have hd := decodeCommand_of_no_row [] hrow
  have hw : s.cmdAsm ++ [w] = [w] := by rw [hasm]; rfl
  have hc : complete [w] = true := beq_iff_eq.2 (commandLength_of_decodeCommand_error hd).symm
  rw [step_commandWord_complete hq hf (by rw [hw]; exact hc), executeCommand_of_error hw hd]
  rfl

/-- Settles O6, by evaluating the decoders. -/
theorem writtenOutWordsDecode : Obligations.WrittenOutWordsDecode :=
  fun _ => ⟨rfl, rfl, rfl, rfl, rfl, rfl, rfl⟩

/-! ## The rows of the teletext port (R83, R84) -/

/-- No two rows have one mnemonic. -/
theorem eq_of_mem_rowsT_of_mnemonic_eq {r r' : EncodingRow 16} (hr : r ∈ rowsT) (hr' : r' ∈ rowsT)
    (h : r.mnemonic = r'.mnemonic) : r = r' :=
  List.inj_on_of_nodup_map (by decide : (rowsT.map EncodingRow.mnemonic).Nodup) hr hr' h

theorem wordTtParity_and_mask (byte : BitVec 8) : wordTtParity byte &&& 0xFF00#16 = 0x1000#16 := by
  rw [argMask_eq_iff rfl, wordTtParity_toNat, BitVec.toNat_ofNat]
  omega

theorem wordTtHamming_and_mask (nibble : BitVec 4) : wordTtHamming nibble &&& 0xFFF0#16 = 0x2000#16 := by
  rw [nibbleMask_eq_iff rfl, wordTtHamming_toNat, BitVec.toNat_ofNat]
  omega

theorem wordTtPktaddr_and_mask (mag : BitVec 3) (pkt : BitVec 5) :
    wordTtPktaddr mag pkt &&& 0xFF00#16 = 0x3000#16 := by
  rw [argMask_eq_iff rfl, wordTtPktaddr_toNat, BitVec.toNat_ofNat]
  omega

/-- An operation's word is of the row of its mnemonic. -/
theorem exists_rowT_of_encode {t : TtWord} {i : Instr} (he : encode i = .teletext t) :
    ∃ r ∈ rowsT, r.mnemonic = i.mnemonic ∧ t &&& r.mask = r.val := by
  cases i <;> cases he
  case ttNone => exact ⟨rowsT[0], List.getElem_mem _, rfl, by decide⟩
  case ttParity byte => exact ⟨rowsT[1], List.getElem_mem _, rfl, wordTtParity_and_mask byte⟩
  case ttHamming nibble => exact ⟨rowsT[2], List.getElem_mem _, rfl, wordTtHamming_and_mask nibble⟩
  case ttPktaddr mag pkt => exact ⟨rowsT[3], List.getElem_mem _, rfl, wordTtPktaddr_and_mask mag pkt⟩

/-- A word of a row is the word of an operation with the row's mnemonic. -/
theorem exists_encode_of_rowT {t : TtWord} {r : EncodingRow 16} (hr : r ∈ rowsT) (ht : t &&& r.mask = r.val) :
    ∃ i, encode i = .teletext t ∧ i.mnemonic = r.mnemonic := by
  simp only [rowsT, List.mem_cons, List.not_mem_nil, or_false] at hr
  rcases hr with rfl | rfl | rfl | rfl
  · obtain rfl : t = 0#16 := BitVec.eq_of_toNat_eq (fullMaskT_eq_iff.1 ht)
    exact ⟨.ttNone, by decide, rfl⟩
  · exact ⟨.ttParity _, congrArg Encoded.teletext (eq_wordTtParity_of_mask ht).symm, rfl⟩
  · exact ⟨.ttHamming _, congrArg Encoded.teletext (eq_wordTtHamming_of_mask ht).symm, rfl⟩
  · obtain ⟨mag, pkt, rfl⟩ := exists_wordTtPktaddr_of_mask ht
    exact ⟨.ttPktaddr mag pkt, rfl, rfl⟩

/-- R83: a row selects a port word exactly when it decodes to the row's mnemonic. -/
theorem rowT_selects_iff {t : TtWord} {r : EncodingRow 16} (hr : r ∈ rowsT) :
    t &&& r.mask = r.val ↔ ∃ i, decodeT t = .ok i ∧ i.mnemonic = r.mnemonic := by
  simp only [decodeT_eq_ok_iff]
  refine ⟨exists_encode_of_rowT hr, fun ⟨i, he, hname⟩ => ?_⟩
  obtain ⟨r', hr', hname', ht⟩ := exists_rowT_of_encode he
  rwa [eq_of_mem_rowsT_of_mnemonic_eq hr hr' (hname.symm.trans hname'.symm)]

/-- The port answers a word of no row with 0 and tt_err = 1 (R84, R197). -/
theorem ttOutputs_of_no_row {t : TtWord} (h : ∀ r ∈ rowsT, ¬ t &&& r.mask = r.val) :
    ttOutputs t = (0x0000#16, true) := by
  cases hd : decodeT t with
  | ok i =>
    obtain ⟨r, hr, -, ht⟩ := exists_rowT_of_encode (encode_of_decodeT hd)
    exact absurd ht (h r hr)
  | error e => exact ttOutputs_of_decodeT_error hd

/-- The words of no row (R84). -/
theorem no_rowT_iff (t : TtWord) : (∀ r ∈ rowsT, ¬ t &&& r.mask = r.val) ↔
    (4 ≤ t.toNat / 2 ^ 12 ∨ t.toNat / 2 ^ 8 % 16 ≠ 0 ∨ (t.toNat / 2 ^ 12 = 2 ∧ t.toNat / 16 % 16 ≠ 0) ∨
      (t.toNat / 2 ^ 12 = 0 ∧ t.toNat % 256 ≠ 0)) := by
  simp only [rowsT, List.mem_cons, List.not_mem_nil, or_false, forall_eq_or_imp, forall_eq, fullMaskT_eq_iff,
    argMask_eq_iff, nibbleMask_eq_iff, BitVec.toNat_ofNat, Nat.reduceMod, Nat.reducePow, Nat.reduceDiv]
  constructor
  · rintro ⟨hnone, hparity, hhamming, hpktaddr⟩
    omega
  · rintro (h | h | ⟨h, hhigh⟩ | ⟨h, harg⟩) <;> omega

/-- Settles O7, from the row of each operation's word and the port's outputs on a word of no row. -/
theorem teletextWordSelectsByMaskAndMatch : Obligations.TeletextWordSelectsByMaskAndMatch := by
  refine ⟨fun t r hr => rowT_selects_iff hr, fun t byte hd => ?_, fun t nibble hd => ?_, fun t mag pkt hd => ?_,
    no_rowT_iff, fun s t rest hq hrow => ?_⟩
  · cases encode_of_decodeT hd
    rw [wordTtParity_toNat]
    omega
  · cases encode_of_decodeT hd
    rw [wordTtHamming_toNat]
    omega
  · cases encode_of_decodeT hd
    rw [wordTtPktaddr_toNat]
    omega
  · rw [step_teletextWord hq, ttOutputs_of_no_row hrow]
    rfl

/-! ## Table words (log 2) -/

/-- A command brought to its last word is, with that word, its header and its payload words of zeros. -/
theorem withCommandArriving_spec (h : Word) (s : State) :
    ∃ asm w, s.withCommandArriving h = { s with cmdAsm := asm, hostQueue := .commandWord w :: s.hostQueue } ∧
      asm ++ [w] = commandWithZeroPayload h := by
  unfold State.withCommandArriving commandWithZeroPayload
  cases payloadWords h with
  | zero => exact ⟨[], h, rfl, rfl⟩
  | succ k => exact ⟨_, 0#32, rfl, by rw [List.replicate_succ', List.cons_append]⟩

theorem eq_ok_of_toOption_eq_some {ε α : Type} {x : Except ε α} {a : α} (h : x.toOption = some a) : x = .ok a := by
  cases x with
  | ok b => exact congrArg Except.ok (Option.some.inj h)
  | error e => cases h

theorem decode_of_decodeTableWord_32 {w : Nat} {i : Instr} (hd : decodeTableWord 32 w = some i) :
    decode (.command (commandWithZeroPayload (BitVec.ofNat 32 w))) = .ok i := by
  rw [decodeTableWord, if_neg (by omega)] at hd
  split at hd
  · exact eq_ok_of_toOption_eq_some hd
  · cases hd

theorem decodeT_of_decodeTableWord_16 {w : Nat} {i : Instr} (hd : decodeTableWord 16 w = some i) :
    decodeT (BitVec.ofNat 16 w) = .ok i := by
  unfold decodeTableWord at hd
  split at hd
  · exact eq_ok_of_toOption_eq_some hd
  · rw [if_neg (by omega)] at hd
    cases hd

/-- Settles O11: withFetchWord leaves the last word of the command, or the port word, as the host's next action. -/
theorem fetchedTableWordRuns : Obligations.FetchedTableWordRuns := by
  refine ⟨fun s w i hf hd => ?_, fun s w i hd => ?_⟩
  · obtain ⟨asm, last, hs, hwords⟩ := withCommandArriving_spec (BitVec.ofNat 32 w) s
    have hcommand := decode_of_decodeTableWord_32 hd
    rw [← hwords] at hcommand ⊢
    rw [State.withFetchWord, if_neg (by decide), hs]
    exact stepRunsTheDecodedCommand _ last s.hostQueue i rfl hf hcommand
  · have hport := decodeT_of_decodeTableWord_16 hd
    rw [State.withFetchWord, if_pos rfl, exec_of_encode_teletext (encode_of_decodeT hport)]
    exact step_teletextWord rfl

end Sys2Proof.Machine
end

section
/-! SUPPORT. The pixel bytes of a payload by their place (R80): EMIT_ACTIVE reads them and nothing else of it. -/

namespace Sys2Proof.Machine

open Sys2Proof Sys2Proof.Spec

/-- The bytes of a word by their place (R52 b). -/
theorem wordBytes_getElem? (w : Word) {k : Nat} (hk : k < 4) : (wordBytes w)[k]? = some (w.extractLsb' (8 * k) 8) := by
  obtain rfl | rfl | rfl | rfl : k = 0 ∨ k = 1 ∨ k = 2 ∨ k = 3 := by omega
  all_goals rfl

/-- Byte k of a list of words is byte k mod 4 of word k div 4. -/
theorem flatMap_wordBytes_getElem? (payload : List Word) (k : Nat) :
    (payload.flatMap wordBytes)[k]? = payload[k / 4]?.map fun w => w.extractLsb' (8 * (k % 4)) 8 := by
  induction payload generalizing k with
  | nil => rfl
  | cons w ws ih =>
    rw [List.flatMap_cons]
    rcases Nat.lt_or_ge k 4 with hk | hk
    · rw [List.getElem?_append_left hk, wordBytes_getElem? w hk, Nat.div_eq_of_lt hk, Nat.mod_eq_of_lt hk]
      rfl
    · obtain ⟨j, rfl⟩ := Nat.exists_eq_add_of_le' hk
      rw [List.getElem?_append_right hk, length_wordBytes, Nat.add_sub_cancel, ih, Nat.add_div_right _ (by decide),
        Nat.add_mod_right]
      rfl

theorem payloadBytes_getElem? {len : BitVec 16} {payload : List Word} {k : Nat} (hk : k < len.toNat) :
    (payloadBytes len payload)[k]? = payload[k / 4]?.map fun w => w.extractLsb' (8 * (k % 4)) 8 := by
  rw [payloadBytes, List.getElem?_take_of_lt hk, flatMap_wordBytes_getElem?]

/-- The byte at a place of a payload, as the number the statements read there (R80). -/
theorem payloadBytes_getElem?_pixelByte {len : BitVec 16} {payload : List Word}
    (hp : payload.length = payloadWordsOfLen len) {k : Nat} (hk : k < len.toNat) :
    (payloadBytes len payload)[k]? = some (BitVec.ofNat 8 (pixelByte payload k)) := by
  have hword : k / 4 < payload.length := by rw [hp, payloadWordsOfLen]; omega
  rw [payloadBytes_getElem? hk, pixelByte, List.getElem?_eq_getElem hword, Option.map_some, Option.getD_some,
    Option.some_inj]
  apply BitVec.eq_of_toNat_eq
  rw [BitVec.extractLsb'_toNat, Nat.shiftRight_eq_div_pow, BitVec.toNat_ofNat, Nat.mod_mod]

/-- Payloads that agree on the pixel bytes have the same ones, whatever their padding (R80). -/
theorem payloadBytes_congr {len : BitVec 16} {p q : List Word} (hp : p.length = payloadWordsOfLen len)
    (hq : q.length = payloadWordsOfLen len) (h : ∀ k, k < len.toNat → pixelByte p k = pixelByte q k) :
    payloadBytes len p = payloadBytes len q := by
  apply List.ext_getElem?
  intro k
  rcases Nat.lt_or_ge k len.toNat with hk | hk
  · rw [payloadBytes_getElem?_pixelByte hp hk, payloadBytes_getElem?_pixelByte hq hk, h k hk]
  · rw [List.getElem?_eq_none ((length_payloadBytes_le len p).trans hk),
      List.getElem?_eq_none ((length_payloadBytes_le len q).trans hk)]

/-- EMIT_ACTIVE reads its payload through the pixel bytes alone (R139). -/
theorem exec_emitActive_congr {len : BitVec 16} {p q : List Word} (h : payloadBytes len p = payloadBytes len q)
    (s : State) : exec (.emitActive len p) s = exec (.emitActive len q) s := by
  simp only [exec, execEmitActive, activeScanline, h]

/-- Settles O27. -/
theorem payloadBytesAreLittleEndian : Obligations.PayloadBytesAreLittleEndian := by
  refine ⟨fun len payload hp => ⟨length_payloadBytes len payload hp, fun k w hk hw => ?_⟩,
    fun len p q s hp hq h => exec_emitActive_congr (payloadBytes_congr hp (hq.trans hp) h) s⟩
  rw [payloadBytes_getElem? hk, hw]
  rfl

end Sys2Proof.Machine
end

section
/-! SUPPORT. The assembler (R85, R86): an operand in its field, the words of each line as numbers, and the rows of the
host's image. -/

namespace Sys2Proof.Machine

open Sys2Proof Sys2Proof.Spec

/-! ## Lists of operands, each with an encoding or not -/

theorem mapM_eq_some_map {α β : Type} {f : α → Option β} {g : α → β} {l : List α} (h : ∀ a ∈ l, f a = some (g a)) :
    l.mapM f = some (l.map g) := by
  induction l with
  | nil => rfl
  | cons a l ih =>
    rw [List.forall_mem_cons] at h
    simp [List.mapM_cons, h.1, ih h.2]

theorem mapM_eq_none {α β : Type} {f : α → Option β} {l : List α} {a : α} (ha : a ∈ l) (hf : f a = none) :
    l.mapM f = none := by
  induction l with
  | nil => cases ha
  | cons b l ih =>
    rw [List.mapM_cons]
    rcases List.mem_cons.1 ha with rfl | ha
    · rw [hf]; rfl
    · rw [ih ha]; cases f b <;> rfl

/-! ## The words of operands written as numbers (R85) -/

theorem headerImm_ofNat {o v k : Nat} (ho : o < 2 ^ 8) (hv : v < 2 ^ 16) (hk : o * 2 ^ 24 + v = k) :
    headerImm (BitVec.ofNat 8 o) (BitVec.ofNat 16 v) = BitVec.ofNat 32 k := by
  apply eq_ofNat_of_toNat_eq
  rw [headerImm_toNat, BitVec.toNat_ofNat, BitVec.toNat_ofNat, Nat.mod_eq_of_lt ho, Nat.mod_eq_of_lt hv, hk]

theorem headerVS_ofNat {sel r v k : Nat} (hs : sel < 2 ^ 2) (hr : r < 2 ^ 6) (hv : v < 2 ^ 16)
    (hk : 0x10 * 2 ^ 24 + sel * 2 ^ 22 + r * 2 ^ 16 + v = k) :
    headerVS (BitVec.ofNat 2 sel) (BitVec.ofNat 6 r) (BitVec.ofNat 16 v) = BitVec.ofNat 32 k := by
  apply eq_ofNat_of_toNat_eq
  rw [headerVS_toNat, BitVec.toNat_ofNat, BitVec.toNat_ofNat, BitVec.toNat_ofNat, Nat.mod_eq_of_lt hs,
    Nat.mod_eq_of_lt hr, Nat.mod_eq_of_lt hv, hk]

theorem wordTtParity_ofNat {b : Nat} (hb : b < 2 ^ 8) :
    wordTtParity (BitVec.ofNat 8 b) = BitVec.ofNat 16 (0x1000 + b) := by
  apply eq_ofNat_of_toNat_eq
  rw [wordTtParity_toNat, BitVec.toNat_ofNat, Nat.mod_eq_of_lt hb]

theorem wordTtHamming_ofNat {x : Nat} (hx : x < 2 ^ 4) :
    wordTtHamming (BitVec.ofNat 4 x) = BitVec.ofNat 16 (0x2000 + x) := by
  apply eq_ofNat_of_toNat_eq
  rw [wordTtHamming_toNat, BitVec.toNat_ofNat, Nat.mod_eq_of_lt hx]

theorem wordTtPktaddr_ofNat {m p : Nat} (hm : m < 2 ^ 3) (hp : p < 2 ^ 5) :
    wordTtPktaddr (BitVec.ofNat 3 m) (BitVec.ofNat 5 p) = BitVec.ofNat 16 (0x3000 + p * 8 + m) := by
  apply eq_ofNat_of_toNat_eq
  rw [wordTtPktaddr_toNat, BitVec.toNat_ofNat, BitVec.toNat_ofNat, Nat.mod_eq_of_lt hm, Nat.mod_eq_of_lt hp]

/-! ## Lines with operands in fields (R85) -/

theorem field_eq_some {n v : Nat} (h : v < 2 ^ n) : Asm.field n v = some (BitVec.ofNat n v) := if_pos h

theorem field_eq_none {n v : Nat} (h : ¬ v < 2 ^ n) : Asm.field n v = none := if_neg h

/-- A line with one operand is encoded when the operand fits. -/
theorem encode_one_field {n v : Nat} {mk : BitVec n → Instr} {e : Encoded}
    (he : v < 2 ^ n → encode (mk (BitVec.ofNat n v)) = e) :
    ((do return [mk (← Asm.field n v)] : Option (List Instr)).map (·.map encode)) =
      if v < 2 ^ n then some [e] else none := by
  split
  case isTrue h => simp [field_eq_some h, he h]
  case isFalse h => simp [field_eq_none h]

/-- A line with two operands is encoded when both fit. -/
theorem encode_two_fields {n m v u : Nat} {mk : BitVec n → BitVec m → Instr} {e : Encoded}
    (he : v < 2 ^ n → u < 2 ^ m → encode (mk (BitVec.ofNat n v) (BitVec.ofNat m u)) = e) :
    ((do return [mk (← Asm.field n v) (← Asm.field m u)] : Option (List Instr)).map (·.map encode)) =
      if v < 2 ^ n ∧ u < 2 ^ m then some [e] else none := by
  by_cases hv : v < 2 ^ n
  · by_cases hu : u < 2 ^ m
    · simp [field_eq_some hv, field_eq_some hu, hv, hu, he hv hu]
    · simp [field_eq_some hv, field_eq_none hu, hu]
  · simp [field_eq_none hv, hv]

/-! ## Pixels (R80, R85) -/

/-- The packed words of bytes (R80). -/
theorem packs_packBytes (bytes : List Byte) : Packs (bytes.map BitVec.toNat) (packBytes bytes) := by
  refine ⟨by rw [length_packBytes, List.length_map], fun k _ => ?_⟩
  rw [pixelByte, byte_packBytes, List.getElem?_map]
  cases bytes[k]? <;> rfl

/-- The words of an EMIT_ACTIVE whose length fits LEN (R85). -/
theorem encode_emitActive {len : Nat} (hlen : len < 2 ^ 16) (payload : List Word) :
    encode (.emitActive (BitVec.ofNat 16 len) payload) = .command (BitVec.ofNat 32 (0x13000000 + len) :: payload) :=
  congrArg (fun header => Encoded.command (header :: payload))
    (headerImm_ofNat (o := 0x13) (by decide) hlen (by omega))

/-- Pixels that are bytes, as bytes. -/
theorem pixels_eq_some {pixels : List Nat} (h : ∀ p ∈ pixels, p < 256) :
    pixels.mapM (Asm.field 8) = some (pixels.map (BitVec.ofNat 8)) :=
  mapM_eq_some_map fun p hp => field_eq_some (h p hp)

theorem toNat_ofNat_pixels {pixels : List Nat} (h : ∀ p ∈ pixels, p < 256) :
    (pixels.map (BitVec.ofNat 8)).map BitVec.toNat = pixels := by
  rw [List.map_map, List.map_congr_left (g := id), List.map_id]
  exact fun p hp => BitVec.toNat_ofNat _ _ |>.trans (Nat.mod_eq_of_lt (h p hp))

theorem activeOf_eq_some {pixels : List Nat} (hlen : pixels.length < 2 ^ 16) (h : ∀ p ∈ pixels, p < 256) :
    Asm.activeOf pixels.length pixels =
      some (.emitActive (BitVec.ofNat 16 pixels.length) (packBytes (pixels.map (BitVec.ofNat 8)))) := by
  simp [Asm.activeOf, field_eq_some hlen, pixels_eq_some h]

theorem activeOf_eq_none {len : Nat} {pixels : List Nat}
    (h : 2 ^ 16 ≤ len ∨ pixels.length ≠ len ∨ ∃ p ∈ pixels, 256 ≤ p) : Asm.activeOf len pixels = none := by
  unfold Asm.activeOf
  rcases h with h | h | ⟨p, hp, hbig⟩
  · rw [field_eq_none (Nat.not_lt.2 h)]; rfl
  · simp [h]
  · rw [mapM_eq_none hp (field_eq_none (Nat.not_lt.2 hbig))]
    cases Asm.field 16 len <;> rfl

theorem assemble_emitActive (image : SourceImage) (len : Nat) (pixels : List Nat) :
    Asm.assemble image (.emitActive len pixels) = (Asm.activeOf len pixels).map ([·]) := by
  rw [Asm.assemble]
  cases Asm.activeOf len pixels <;> rfl

/-! ## Rows and frames (R86, R171) -/

section
variable (image : SourceImage)

theorem assemble_row (r : Nat) : Asm.assemble image (.row r) = (rowOf image r).map ([·]) := by
  rw [Asm.assemble]
  cases rowOf image r <;> rfl

theorem rowOf_eq (r : Nat) : rowOf image r = image[r]?.bind rowCommand := rfl

theorem rowCommand_eq_none {row : List Byte} (h : 2 ^ 16 ≤ row.length) : rowCommand row = none :=
  if_neg (Nat.not_lt.2 h)

theorem mem_field1Rows {r : Nat} : r ∈ field1Rows ↔ r ≤ 608 ∧ r % 2 = 0 := by
  simp only [field1Rows, List.mem_map, List.mem_range]
  exact ⟨fun ⟨i, hi, he⟩ => by omega, fun h => ⟨r / 2, by omega, by omega⟩⟩

theorem mem_field2Rows {r : Nat} : r ∈ field2Rows ↔ r ≤ 608 ∧ r % 2 = 1 := by
  simp only [field2Rows, List.mem_map, List.mem_range]
  exact ⟨fun ⟨i, hi, he⟩ => by omega, fun h => ⟨r / 2, by omega, by omega⟩⟩

/-- A frame whose rows all have a command (R171). -/
theorem composeFrame_eq_frameOf {row : Nat → Instr} (h : ∀ r ≤ 608, rowOf image r = some (row r)) :
    composeFrame image = some (frameOf row) := by
  have hfield1 := mapM_eq_some_map (l := field1Rows) fun r hr => h r (mem_field1Rows.1 hr).1
  have hfield2 := mapM_eq_some_map (l := field2Rows) fun r hr => h r (mem_field2Rows.1 hr).1
  rw [composeFrame, hfield1, hfield2]
  simp [frameOf, field1Rows, field2Rows, vsync, equalize, Function.comp_def]

/-- A frame of which one row has no command (log 13). -/
theorem composeFrame_eq_none {r : Nat} (hr : r ≤ 608) (h : rowOf image r = none) : composeFrame image = none := by
  rcases Nat.mod_two_eq_zero_or_one r with heven | hodd
  · simp [composeFrame, mapM_eq_none (mem_field1Rows.2 ⟨hr, heven⟩) h]
  · simp [composeFrame, mapM_eq_none (mem_field2Rows.2 ⟨hr, hodd⟩) h]

end

/-- Settles O8, line by line. -/
theorem assemblerRejectsWhatDoesNotFit : Obligations.AssemblerRejectsWhatDoesNotFit := by
  intro image
  have command {h h' : Word} (heq : h = h') : Encoded.command [h] = .command [h'] := by rw [heq]
  refine ⟨fun v => ?_, fun r => ?_, fun r => ?_, fun w r => ?_, fun len pixels hlen hcount hbytes => ?_,
    fun len pixels hbad => ?_, fun b => ?_, fun x => ?_, fun m p => ?_, rfl, rfl, fun r row hrow hlen => ?_,
    fun r row hrow hlen => ?_, fun r hrow => ?_, fun row hrows => ?_, fun r hr hnone => ?_⟩
  · exact encode_one_field (mk := .configure) fun h => command (headerImm_ofNat (o := 0x01) (by decide) h (by omega))
  · exact encode_one_field (v := r) (mk := .emitBroad) fun h =>
      command (headerVS_ofNat (sel := 0) (v := 0) (by decide) h (by decide) (by omega))
  · exact encode_one_field (v := r) (mk := .emitShort) fun h =>
      command (headerVS_ofNat (sel := 1) (v := 0) (by decide) h (by decide) (by omega))
  · rw [if_congr and_comm rfl rfl]
    exact encode_two_fields (v := r) (u := w) (mk := .emitPulse) fun hr hw =>
      command (headerVS_ofNat (sel := 2) (by decide) hr hw (by omega))
  · subst hcount
    refine ⟨packBytes (pixels.map (BitVec.ofNat 8)), ?_, encode_emitActive hlen _, ?_⟩
    · rw [assemble_emitActive, activeOf_eq_some hlen hbytes]
      rfl
    · have hpacks := packs_packBytes (pixels.map (BitVec.ofNat 8))
      rwa [toNat_ofNat_pixels hbytes] at hpacks
  · rw [assemble_emitActive, activeOf_eq_none hbad]
    rfl
  · exact encode_one_field (mk := .ttParity) fun h => congrArg Encoded.teletext (wordTtParity_ofNat h)
  · exact encode_one_field (mk := .ttHamming) fun h => congrArg Encoded.teletext (wordTtHamming_ofNat h)
  · exact encode_two_fields (mk := .ttPktaddr) fun hm hp => congrArg Encoded.teletext (wordTtPktaddr_ofNat hm hp)
  · refine ⟨packBytes row, ?_, encode_emitActive hlen _, packs_packBytes row⟩
    rw [assemble_row, rowOf_eq, hrow, Option.bind_some, (rowCommand_eq_some_iff row _).2 ⟨hlen, rfl⟩]
    rfl
  · rw [assemble_row, rowOf_eq, hrow, Option.bind_some, rowCommand_eq_none hlen]
    rfl
  · rw [assemble_row, rowOf_eq, hrow]
    rfl
  · exact composeFrame_eq_frameOf image fun r hr => by simpa [assemble_row] using hrows r hr
  · exact composeFrame_eq_none image hr (by simpa [assemble_row] using hnone)

end Sys2Proof.Machine
end

section
/-! SUPPORT. The timing derivation (R101-R118): the exact rationals behind the EXACT counts, and what BINARY64 loses. -/

namespace Sys2Proof.Machine

open Sys2Proof Sys2Proof.Spec Binary64

/-! ## EXACT: integer forms of the exact rationals (R102-R109, R118) -/

/-- The floor of a rational that is a quotient by 1039 is the truncated quotient. -/
theorem floor_eq_div_1039 {x : ℚ} {a : Nat} (hx : x = (a : ℚ) / 1039) : ⌊x⌋₊ = a / 1039 := by
  rw [hx, ← Nat.floor_div_eq_div (K := ℚ)]
  rfl

/-- Settles O14: each count is `k n / 1039`, where its time is k parts in 20,000,000 of a second. -/
theorem exactProfileIsTruncatedRational : Obligations.ExactProfileIsTruncatedRational := by
  intro n pf p
  have hpf : pf = 20000000 * n / 1039 := by ring
  have hcount (k : Nat) {time : ℚ} (ht : time = k / 20000000) : k * n / 1039 = ⌊time * pf⌋₊ := by
    refine (floor_eq_div_1039 ?_).symm
    rw [ht, hpf]
    push_cast
    ring
  have hline : ((15625 * p.scanlineSamples : Nat) : ℚ) = p.scanlineSamples / (64 / 10 ^ 6) := by
    push_cast
    ring
  have hfreq : p.pixelFreqHz = ⌊pf⌋₊ := (floor_eq_div_1039 (by rw [hpf]; push_cast; rfl)).symm
  refine ⟨hpf, ⟨hcount 33 ?_, rfl⟩, ⟨hcount 94 ?_, rfl⟩, ⟨hcount 114 ?_, rfl⟩, rfl, ⟨hline, rfl⟩, ⟨hcount 47 ?_, rfl⟩,
    ⟨hcount 546 ?_, rfl⟩, hfreq, rfl⟩
  all_goals norm_num

/-! ## BINARY64: the two frequencies (R112) -/

/-- A value in [N, N + 1) truncates to N. -/
theorem trunc_eq_of_near {a : Binary64} {N : Nat} (hlow : (N : ℚ) ≤ a.toRat) (hhigh : a.toRat < N + 1) :
    a.trunc = N := by
  rw [trunc_eq_floor, Nat.floor_eq_iff (le_trans N.cast_nonneg hlow)]
  exact ⟨hlow, hhigh⟩

/-- b(64e-6) is a little below 64e-6, so the quotient is rounded to no less than 15625 S. -/
theorem trunc_div_b64Line {S : Nat} (h1 : 1 ≤ S) (h2 : S ≤ 80736) : ((ofNat S).div b64Line).trunc = 15625 * S := by
  have hlo : (1 : ℚ) ≤ S := by exact_mod_cast h1
  have hhi : (S : ℚ) ≤ 80736 := by exact_mod_cast h2
  have hquot : (ofNat S).toRat / b64Line.toRat = S * (2 ^ 66 / 4722366482869645) := by
    rw [ofNat_toRat S (by omega), b64Line_toRat]
    ring
  have herr := div_error (ofNat S) b64Line (ofNat_sig_pos S (by omega) h1) (by decide)
    (ten_pow_small (by rw [hquot]; norm_num; linarith))
  rw [hquot] at herr
  have hupper := (abs_le.1 herr).2
  refine trunc_eq_of_near (le_toRat_div _ _ _ (by omega) (by decide) ?_ ?_) ?_
  · rw [hquot]; push_cast; norm_num; linarith
  · rw [hquot]; norm_num; linarith
  · push_cast; norm_num at hupper; linarith

theorem sampleFreqHz64_eq {n : Nat} (h1 : 1 ≤ n) (h2 : n < 65536) :
    sampleFreqHz64 n = 15625 * scanlineSamples64 n := by
  have hsum : scanlineSamples64 n = frontPorch64 n + hsyncPulse64 n + n + backPorch64 n := rfl
  exact trunc_div_b64Line (by omega) ((timingProfile_countsNearExact .binary64 h1 h2).scanlineSamples_le h2)

/-- Where the exact pixel frequency is no integer, rounding cannot change its integer part. -/
theorem pixelFreqHz64_of_not_dvd {n : Nat} (h1 : 1 ≤ n) (h2 : n < 65536) (hn : ¬ 1039 ∣ n) :
    pixelFreqHz64 n = pixelFreqHzExact n := by
  rw [pixelFreqHz64, trunc_eq_floor]
  refine floor_near _ _ (by omega) (by omega) ?_
  push_cast
  refine (pixelFreq64_near n h1 h2).trans ?_
  rw [div_eq_mul_one_div _ (2 ^ 50 : ℚ)]
  exact mul_le_mul_of_nonneg_left (by norm_num) (by positivity)

/-! ## BINARY64: the truncated products (R113) -/

/-- What BINARY64 loses of the back porch. -/
def backPorchLoss (n : Nat) : Nat := if n ∈ binary64Exceptions then 1 else 0

/-- The BINARY64 truncations of n are the exact ones, but for the loss in the back porch. -/
structure Truncations64AreExact (n : Nat) : Prop where
  frontPorch : frontPorch64 n = frontPorchExact n
  hsyncPulse : hsyncPulse64 n = hsyncPulseExact n
  backPorch : backPorch64 n + backPorchLoss n = backPorchExact n
  halfShort : halfShort64 n = halfShortExact n
  halfBroad : halfBroad64 n = halfBroadExact n
  pixelFreqHz : pixelFreqHz64 n = pixelFreqHzExact n

theorem dvd_of_mem_binary64Exceptions : ∀ n ∈ binary64Exceptions, 1039 ∣ n := by decide

/-- Where the exact products are integers, rounding alone decides the truncation: the 63 multiples of 1039 one by one. -/
theorem truncations64_of_multiple : ∀ m < 64, m ≠ 0 →
    frontPorch64 (1039 * m) = frontPorchExact (1039 * m) ∧ hsyncPulse64 (1039 * m) = hsyncPulseExact (1039 * m) ∧
    backPorch64 (1039 * m) + backPorchLoss (1039 * m) = backPorchExact (1039 * m) ∧
    halfShort64 (1039 * m) = halfShortExact (1039 * m) ∧ halfBroad64 (1039 * m) = halfBroadExact (1039 * m) ∧
    pixelFreqHz64 (1039 * m) = pixelFreqHzExact (1039 * m) := by
  decide +kernel

theorem truncations64AreExact {n : Nat} (h1 : 1 ≤ n) (h2 : n < 65536) : Truncations64AreExact n := by
  by_cases hn : 1039 ∣ n
  · obtain ⟨m, rfl⟩ := hn
    obtain ⟨hfp, hhs, hbp, hsh, hbr, hpf⟩ := truncations64_of_multiple m (by omega) (by omega)
    exact ⟨hfp, hhs, hbp, hsh, hbr, hpf⟩
  · have product (c : Binary64) (k : Nat) (hk1 : 1 ≤ k) (hk2 : k < 1039) := trunc_product c k n hk1 hk2 h1 h2 hn
    have hloss : backPorchLoss n = 0 := if_neg fun hmem => hn (dvd_of_mem_binary64Exceptions n hmem)
    exact
      { frontPorch := product _ 33 (by decide) (by decide) b64FrontPorch_near
        hsyncPulse := product _ 94 (by decide) (by decide) b64Hsync_near
        backPorch := by rw [hloss]; exact product _ 114 (by decide) (by decide) b64BackPorch_near
        halfShort := product _ 47 (by decide) (by decide) b64ShortPulse_near
        halfBroad := product _ 546 (by decide) (by decide) b64Broad_near
        pixelFreqHz := pixelFreqHz64_of_not_dvd h1 h2 hn }

/-- The BINARY64 profile from the exact one. -/
theorem profile64_eq {n : Nat} (h1 : 1 ≤ n) (h2 : n < 65536) :
    profile64 n =
      { profileExact n with
        backPorch := backPorchExact n - backPorchLoss n
        scanlineSamples := scanlineSamplesExact n - backPorchLoss n
        sampleFreqHz := sampleFreqHzExact n - 15625 * backPorchLoss n } := by
  obtain ⟨hfp, hhs, hbp, hsh, hbr, hpf⟩ := truncations64AreExact h1 h2
  have hS : scanlineSamples64 n = scanlineSamplesExact n - backPorchLoss n := by
    rw [scanlineSamples64, scanlineSamplesExact, hfp, hhs, ← hbp]
    omega
  rw [profile64, hfp, hhs, ← hbp, hsh, hbr, sampleFreqHz64_eq h1 h2, hS, hpf, Nat.mul_sub,
    Nat.add_sub_cancel]
  rfl

theorem timingProfile_eq_exact {n : Nat} (h1 : 1 ≤ n) (h2 : n < 65536) (hn : n ∉ binary64Exceptions)
    (mode : NumericMode) : timingProfile mode n = timingProfile .exact n := by
  cases mode with
  | exact => rfl
  | binary64 =>
    refine (profile64_eq h1 h2).trans ?_
    rw [backPorchLoss, if_neg hn]
    rfl

/-! ## Both modes (R107, R114, R118) -/

theorem timingProfile_sampleFreqHz (mode : NumericMode) {n : Nat} (h1 : 1 ≤ n) (h2 : n < 65536) :
    (timingProfile mode n).sampleFreqHz = 15625 * (timingProfile mode n).scanlineSamples := by
  cases mode with
  | exact => rfl
  | binary64 => exact sampleFreqHz64_eq h1 h2

theorem timingProfile_pixelFreqHz (mode : NumericMode) {n : Nat} (h1 : 1 ≤ n) (h2 : n < 65536) :
    (timingProfile mode n).pixelFreqHz = 20000000 * n / 1039 := by
  cases mode with
  | exact => rfl
  | binary64 => exact (truncations64AreExact h1 h2).pixelFreqHz

/-- Settles O16: the modes differ by the loss in the back porch, which is 1 at the eleven values and 0 elsewhere. -/
theorem numericModesDifferAtElevenValues : Obligations.NumericModesDifferAtElevenValues := by
  refine ⟨by decide +kernel, fun n h1 hle => ?_⟩
  have h2 : n < 65536 := by omega
  refine ⟨fun hn => timingProfile_eq_exact h1 h2 hn .binary64, fun hn => ?_,
    fun mode => ⟨timingProfile_sampleFreqHz mode h1 h2, timingProfile_pixelFreqHz mode h1 h2⟩⟩
  have hdvd := dvd_of_mem_binary64Exceptions n hn
  have hloss : backPorchLoss n = 1 := if_pos hn
  have hbp : backPorch64 n + 1 = 114 * n / 1039 := hloss ▸ (truncations64AreExact h1 h2).backPorch
  have hS : (timingProfile .exact n).scanlineSamples =
      frontPorchExact n + hsyncPulseExact n + n + backPorchExact n := rfl
  refine ⟨hdvd.mul_left 114, ?_, (Nat.le_add_left 1 _).trans_eq hbp, by omega, ?_⟩
  · refine (profile64_eq h1 h2).trans ?_
    rw [hloss]
    rfl
  · have hquot : (114 * n : ℚ) / 1039 = (114 * n / 1039 : Nat) := by
      rw [Nat.cast_div (hdvd.mul_left 114) (by norm_num)]
      push_cast
      rfl
    rw [hquot, ← Nat.floor_lt', ← trunc_eq_floor]
    · exact (Nat.lt_succ_self _).trans_eq hbp
    · omega

/-- Settles O17, from the bounds of the products in n. -/
theorem profileValuesAreBounded : Obligations.ProfileValuesAreBounded := by
  refine ⟨?_, by decide, by decide, ?_⟩
  · intro mode n h1 hle p
    have h2 : n < 65536 := by omega
    have hp : p.CountsNearExact n := timingProfile_countsNearExact mode h1 h2
    have hfp := hp.frontPorch.le
    have hhs := hp.hsyncPulse.le
    have hbp := hp.backPorch.le
    have hsh := hp.halfShort.le
    have hbr := hp.halfBroad.le
    have hsum := hp.sum
    have hsf : p.sampleFreqHz = 15625 * p.scanlineSamples := timingProfile_sampleFreqHz mode h1 h2
    have hpf : p.pixelFreqHz = 20000000 * n / 1039 := timingProfile_pixelFreqHz mode h1 h2
    omega
  · intro m n hmn p q
    have hproduct (k : Nat) : k * m / 1039 ≤ k * n / 1039 := Nat.div_le_div_right (Nat.mul_le_mul_left k hmn)
    have hS : p.scanlineSamples ≤ q.scanlineSamples :=
      Nat.add_le_add (Nat.add_le_add (Nat.add_le_add (hproduct 33) (hproduct 94)) hmn) (hproduct 114)
    exact ⟨hproduct 33, hproduct 94, hproduct 114, hS, hproduct 47, hproduct 546, Nat.mul_le_mul_left 15625 hS,
      hproduct 20000000⟩

end Sys2Proof.Machine
end

section
/-! SUPPORT. CONFIGURE (R100), and what the other commands do with a profile: they keep it (R115), and its segments fit
the half-line (R117). -/

namespace Sys2Proof.Machine

open Sys2Proof Sys2Proof.Spec

/-! ## CONFIGURE (R100) -/

theorem imm16_eq_ofNat (w : Word) : imm16 w = BitVec.ofNat 16 w.toNat :=
  BitVec.eq_of_toNat_eq ((imm16_toNat w).trans (BitVec.toNat_ofNat ..).symm)

theorem decodeCommand_configure_of_mask {w : Word} (payload : List Word) (hw : w &&& 0xFFFF0000#32 = 0x01000000#32) :
    decodeCommand w payload = .ok (.configure (BitVec.ofNat 16 w.toNat)) := by
  rw [immMask_eq_iff (by decide)] at hw
  simp only [BitVec.toNat_ofNat, Nat.reduceMod, Nat.reducePow, Nat.reduceDiv] at hw
  have hopc : opc w = 0x01#8 := eq_ofNat_of_toNat_eq ((opc_toNat w).trans (by omega))
  have hreserved : reservedByte w = 0#8 := eq_ofNat_of_toNat_eq ((reservedByte_toNat w).trans (by omega))
  rw [← imm16_eq_ofNat]
  exact (commandForm_configure payload hopc hreserved).decodeCommand_eq

theorem headerConfigure_eq_ofNat (n : BitVec 16) : headerConfigure n = BitVec.ofNat 32 (0x01000000 + n.toNat) :=
  eq_ofNat_of_toNat_eq (headerImm_toNat 0x01#8 n)

/-! One equation for each way of R100, for a proof that knows which it is. -/

theorem exec_configure_reconfigure {s : State} (hc : s.configured = true) (n : BitVec 16) :
    exec (.configure n) s = .next (s.raiseFault .reconfigure (headerConfigure n)) := if_pos hc

theorem exec_configure_zero {s : State} (hc : s.configured = false) :
    exec (.configure 0#16) s = .next (s.raiseFault .configError (headerConfigure 0#16)) := by
  simp [exec, execConfigure, hc]

theorem exec_configure_latches {s : State} (hc : s.configured = false) {n : BitVec 16} (hn : n ≠ 0#16) :
    exec (.configure n) s = .next (s.latchProfile n) := by
  simp [exec, execConfigure, hc, hn]

/-- Settles O15: the three ways of R100; at 1 and 208, which are none of the eleven values, the modes agree. -/
theorem configureLatchesTheProfile : Obligations.ConfigureLatchesTheProfile := by
  refine ⟨fun w payload => decodeCommand_configure_of_mask payload, fun w payload hopc hreserved => ?_, fun n s hc => ?_,
    fun s hc => exec_configure_zero hc, fun n s hc hn => ?_, fun mode => ⟨?_, ?_⟩⟩
  · exact decodeCommand_of_no_row payload ((no_row_iff w).2 (.inr (.inr (.inl ⟨List.mem_cons.2 (.inl hopc), hreserved⟩))))
  · rw [Faults, ← headerConfigure_eq_ofNat]
    exact exec_configure_reconfigure hc n
  · obtain ⟨-, hp⟩ := (State.profileInv_iff_of_configured rfl).1 (s.latchProfile_profileInv hn)
    exact ⟨_, exec_configure_latches hc hn, rfl, hp⟩
  · exact timingProfile_eq_exact (by decide) (by decide) (by decide) mode
  · exact timingProfile_eq_exact (by decide) (by decide) (by decide) mode

/-! ## SEGMENT_UNDERFLOW (R117) -/

/-- The frame of an EMIT command enters SEGMENT_UNDERFLOW by its own operand check alone. -/
theorem emitFrame_segmentUnderflow {header : Word} {check : Option FaultCode} {g : Nat} {codes : List Code} {s : State}
    (h : (emitFrame header check g codes s).faultCode = .segmentUnderflow) (hs : s.faultCode ≠ .segmentUnderflow) :
    check = some .segmentUnderflow := by
  rcases emitFrame_cases header check g codes s with ⟨-, e⟩ | ⟨code, -, hcheck, e⟩ | ⟨-, -, -, e⟩ | ⟨-, -, -, e⟩
  · rw [e] at h; cases h
  · rw [e] at h; exact hcheck.trans (congrArg some h)
  · rw [e] at h; cases h
  · rw [e] at h; exact absurd h hs

theorem rowFault_ne_segmentUnderflow (len : BitVec 16) (s : State) : rowFault len s ≠ some .segmentUnderflow := by
  unfold rowFault
  split <;> nofun

theorem exec_configure_faultCode {n : BitVec 16} {s t : State} (h : exec (.configure n) s = .next t) :
    t.faultCode = s.faultCode ∨ t.faultCode = .reconfigure ∨ t.faultCode = .configError := by
  cases hc : s.configured with
  | true =>
    rw [exec_configure_reconfigure hc] at h
    cases h
    exact .inr (.inl rfl)
  | false =>
    by_cases hn : n = 0#16
    · rw [hn, exec_configure_zero hc] at h
      cases h
      exact .inr (.inr rfl)
    · rw [exec_configure_latches hc hn] at h
      cases h
      exact .inl rfl

/-- Only EMIT_PULSE, with a width above the half-line, enters SEGMENT_UNDERFLOW. -/
theorem exec_segmentUnderflow {i : Instr} {s t : State} (h : exec i s = .next t)
    (hs : s.faultCode ≠ .segmentUnderflow) (ht : t.faultCode = .segmentUnderflow) :
    ∃ reps pw, i = .emitPulse reps pw ∧ s.halfLine < pw.toNat := by
  cases i with
  | configure n =>
    rcases exec_configure_faultCode h with e | e | e
    · exact absurd (e.symm.trans ht) hs
    · rw [e] at ht; cases ht
    · rw [e] at ht; cases ht
  | emitBroad reps => cases h; cases emitFrame_segmentUnderflow ht hs
  | emitShort reps => cases h; cases emitFrame_segmentUnderflow ht hs
  | emitPulse reps pw =>
    cases h
    refine ⟨reps, pw, rfl, ?_⟩
    by_contra hle
    have hcheck := emitFrame_segmentUnderflow ht hs
    rw [pulseFault_eq_none.2 (Nat.not_lt.1 hle)] at hcheck
    cases hcheck
  | emitBlank => cases h; cases emitFrame_segmentUnderflow ht hs
  | emitSynced => cases h; cases emitFrame_segmentUnderflow ht hs
  | emitActive len payload =>
    cases h
    exact absurd (emitFrame_segmentUnderflow ht hs) (rowFault_ne_segmentUnderflow len s)
  | nop => cases h; exact absurd ht hs
  | bufHandoff => cases h; exact absurd ht hs
  | ttNone => cases h; exact absurd ht hs
  | ttParity byte => cases h; exact absurd ht hs
  | ttHamming nibble => cases h; exact absurd ht hs
  | ttPktaddr mag pkt => cases h; exact absurd ht hs

/-- Settles O18: the counts near the exact ones fit the half-line, and EMIT_PULSE alone checks a width. -/
theorem segmentCountsAreNonNegative : Obligations.SegmentCountsAreNonNegative := by
  refine ⟨fun mode n h1 hle => ?_, fun i s t h hi hs ht => ?_, fun reps pw s t h hs ht => ?_, fun mode => ?_⟩
  · have hp := timingProfile_countsNearExact mode h1 (Nat.lt_succ_of_le hle)
    exact ⟨hp.halfBroad_le, hp.halfShort_le, hp.hsync_add_backPorch_le⟩
  · obtain ⟨reps, pw, hpulse, -⟩ := exec_segmentUnderflow h hs ht
    exact hi reps pw hpulse
  · obtain ⟨reps', pw', hpulse, hlt⟩ := exec_segmentUnderflow h hs ht
    cases hpulse
    exact hlt
  · rw [timingProfile_eq_exact (by decide) (by decide) (by decide) mode]
    decide

/-! ## The profile is kept until reset (R115) -/

/-- t is configured, with the profile of s. -/
def KeepsProfile (s t : State) : Prop := SameProfile s t ∧ t.configured = true

theorem keepsProfile_refl {s : State} (hc : s.configured = true) : KeepsProfile s s := ⟨⟨rfl, rfl⟩, hc⟩

theorem exec_keepsProfile {i : Instr} {s t : State} (h : exec i s = .next t) (hc : s.configured = true) :
    KeepsProfile s t := by
  rcases exec_cases h with ⟨-, rfl⟩ | ⟨n, -, hunconfigured, -⟩ | ⟨code, header, -, rfl⟩ | ⟨codes, -, rfl⟩ | ⟨-, rfl⟩ |
    ⟨w, r, e, rfl⟩
  · exact keepsProfile_refl hc
  · exact absurd (hc.symm.trans hunconfigured) (by decide)
  all_goals exact ⟨⟨rfl, rfl⟩, hc⟩

/-- Settles O20: a configured engine's commands keep the profile, and no other step but reset writes it. -/
theorem profileIsImmutable : Obligations.ProfileIsImmutable := by
  refine ⟨fun s t hc hreset h => ?_, fun s n hc => ⟨_, exec_configure_reconfigure hc n, rfl, rfl, rfl⟩⟩
  rcases step_effect h with ⟨asm, queue, log, w, r, e, rfl⟩ | ⟨w, rest, i, u, -, -, -, hu, rfl⟩ | ⟨rest, header, rfl⟩ |
    ⟨rest, hq, -⟩
  · exact ⟨⟨rfl, rfl⟩, hc⟩
  · have hkept := exec_keepsProfile hu hc
    exact hkept
  · exact ⟨⟨rfl, rfl⟩, hc⟩
  · exact absurd (by rw [hq]; rfl) hreset

end Sys2Proof.Machine
end

section
/-! SUPPORT. The segments of the EMIT commands by the index of each sample (R133, R138, R139). -/

namespace Sys2Proof.Machine

open Sys2Proof Sys2Proof.Spec

/-! ## Lists by index -/

/-- One list after another, each given by its index. -/
theorem map_range_append_map_range {α : Type} (f g : Nat → α) (a b : Nat) :
    (List.range a).map f ++ (List.range b).map g = (List.range (a + b)).map fun k => if k < a then f k else g (k - a) := by
  rw [List.range_add, List.map_append, List.map_map]
  congr 1
  · exact List.map_congr_left fun k hk => (if_pos (List.mem_range.1 hk)).symm
  · exact List.map_congr_left fun k _ => by simp

theorem map_range_congr {α : Type} {f g : Nat → α} {n : Nat} (h : ∀ k < n, f k = g k) :
    (List.range n).map f = (List.range n).map g :=
  List.map_congr_left fun k hk => h k (List.mem_range.1 hk)

theorem rep_eq_map (n : Nat) (c : Code) : rep n c = (List.range n).map fun _ => c := by
  simp [rep]

theorem rep_append_rep {a n : Nat} (h : a ≤ n) (c d : Code) :
    rep a c ++ rep (n - a) d = (List.range n).map fun k => if k < a then c else d := by
  rw [rep_eq_map, rep_eq_map, map_range_append_map_range, Nat.add_sub_cancel' h]

/-! ## Sync blocks (R133) -/

theorem pulseHalfLine_eq_map {pw h : Nat} (hp : pw ≤ h) :
    pulseHalfLine pw h = (List.range h).map (pulseSample pw h) := by
  refine (rep_append_rep hp _ _).trans (map_range_congr fun k hk => ?_)
  rw [pulseSample, Nat.mod_eq_of_lt hk]
  rfl

theorem pulseSample_add_left (pw h k : Nat) : pulseSample pw h (h + k) = pulseSample pw h k := by
  rw [pulseSample, Nat.add_mod_left, pulseSample]

theorem syncBlock_eq_map {pw h : Nat} (hp : pw ≤ h) (reps : Nat) :
    syncBlock pw h reps = (List.range (reps * h)).map (pulseSample pw h) := by
  induction reps with
  | zero => simp [syncBlock]
  | succ reps ih =>
    rw [syncBlock_succ, ih, pulseHalfLine_eq_map hp, Nat.succ_mul, Nat.add_comm, List.range_add, List.map_append,
      List.map_map]
    exact congrArg _ (map_range_congr fun k _ => (pulseSample_add_left pw h k).symm)

theorem pulseSample_zero (h k : Nat) : pulseSample 0 h k = 765#12 := if_neg (Nat.not_lt_zero _)

/-- A pulse as wide as the half-line leaves no BLANK sample (R136). -/
theorem pulseSample_self {reps h k : Nat} (hk : k < reps * h) : pulseSample h h k = 0#12 :=
  if_pos (Nat.mod_lt k (Nat.pos_of_ne_zero fun h0 => by simp [h0] at hk))

/-! ## The half-line of EMIT_SYNCED and the scanline of EMIT_ACTIVE (R138, R139) -/

theorem payloadBytes_eq_map {len : BitVec 16} {payload : List Word} (hp : payload.length = payloadWordsOfLen len) :
    payloadBytes len payload = (List.range len.toNat).map fun k => BitVec.ofNat 8 (pixelByte payload k) := by
  apply List.ext_getElem?
  intro k
  rcases Nat.lt_or_ge k len.toNat with hk | hk
  · rw [payloadBytes_getElem?_pixelByte hp hk, List.getElem?_map, List.getElem?_range hk]
    rfl
  · rw [List.getElem?_eq_none ((length_payloadBytes_le len payload).trans hk), List.getElem?_eq_none (by simpa using hk)]

theorem codePixel_ofNat {p : Nat} (hp : p < 256) : codePixel (BitVec.ofNat 8 p) = BitVec.ofNat 12 (765 + 7 * p) := by
  rw [codePixel, BitVec.toNat_ofNat, Nat.mod_eq_of_lt hp]

theorem pixelByte_lt (payload : List Word) (k : Nat) : pixelByte payload k < 256 := Nat.mod_lt _ (by decide)

theorem pixelCodes_eq_map {len : BitVec 16} {payload : List Word} (hp : payload.length = payloadWordsOfLen len) :
    (payloadBytes len payload).map codePixel =
      (List.range len.toNat).map fun k => BitVec.ofNat 12 (765 + 7 * pixelByte payload k) := by
  rw [payloadBytes_eq_map hp, List.map_map]
  exact map_range_congr fun k _ => codePixel_ofNat (pixelByte_lt payload k)

section
variable {s : State} (h : s.ProfileInv) (hc : s.configured = true)
include h hc

theorem syncedHalfLine_eq_map :
    syncedHalfLine s = (List.range s.halfLine).map fun k => if k < s.hsyncPulse.toNat then 0#12 else 765#12 := by
  have hle := h.hsync_add_backPorch_le_halfLine hc
  have hblank : s.backPorch.toNat + (s.halfLine - s.hsyncPulse.toNat - s.backPorch.toNat) =
      s.halfLine - s.hsyncPulse.toNat := by omega
  rw [syncedHalfLine, List.append_assoc, ← rep_add, hblank, rep_append_rep (by omega)]
  rfl

theorem activeScanline_eq_map {payload : List Word} (hp : payload.length = payloadWordsOfLen s.ppl) :
    activeScanline s.ppl payload s = (List.range s.scanlineSamples.toNat).map (activeSample s payload) := by
  have hsum : s.hsyncPulse.toNat + s.backPorch.toNat + s.ppl.toNat + s.frontPorch.toNat = s.scanlineSamples.toNat := by
    have := h.scanline_sum hc
    omega
  rw [activeScanline, pixelCodes_eq_map hp, rep_eq_map, rep_eq_map, rep_eq_map, map_range_append_map_range,
    map_range_append_map_range, map_range_append_map_range, hsum]
  refine map_range_congr fun k _ => ?_
  rw [activeSample, Nat.sub_sub]
  rcases Nat.lt_or_ge k s.hsyncPulse.toNat with hsync | hsync
  · rw [if_pos (by omega), if_pos (by omega), if_pos hsync, if_pos hsync]
    rfl
  · rcases Nat.lt_or_ge k (s.hsyncPulse.toNat + s.backPorch.toNat) with hporch | hporch
    · rw [if_pos (by omega), if_pos hporch, if_neg (Nat.not_lt.2 hsync), if_neg (Nat.not_lt.2 hsync), if_pos hporch]
      rfl
    · simp only [if_neg (Nat.not_lt.2 hsync), if_neg (Nat.not_lt.2 hporch)]
      rfl

end

end Sys2Proof.Machine
end

section
/-! SUPPORT. The frame of the EMIT commands (R130) in the words of the statements, and the headers of the six as numbers. -/

namespace Sys2Proof.Machine

open Sys2Proof Sys2Proof.Spec

/-! ## The ways of the frame -/

section
variable {i : Instr} {s : State} {header : Word} {check : Option FaultCode} {g : Nat} {codes : List Code}
  (hx : exec i s = .next (emitFrame header check g codes s))
include hx

theorem faults_notConfigured (hc : s.configured = false) : Faults i s .notConfigured header :=
  hx.trans (congrArg _ (emitFrame_unconfigured header check g codes hc))

theorem faults_of_check (hc : s.configured = true) {code : FaultCode} (hk : check = some code) :
    Faults i s code header := by
  subst hk
  exact hx.trans (congrArg _ (emitFrame_check header code g codes hc))

theorem faults_bufferOverflow (hc : s.configured = true) (hk : check = none) (hg : ¬ Fits s g) :
    Faults i s .bufferOverflow header := by
  subst hk
  exact hx.trans (congrArg _ (emitFrame_overflow header g codes hc (Nat.not_le.1 hg)))

theorem appends_of_fits (hc : s.configured = true) (hk : check = none) (hg : Fits s g) {f : Nat → Code}
    (hcodes : codes = (List.range g).map f) : Appends i s g f := by
  subst hk hcodes
  refine hx.trans (congrArg _ ((emitFrame_fits header g _ hc hg).trans ?_))
  rw [State.appendCodes, List.length_map, List.length_range]

end

/-- Only the samples that are appended count. -/
theorem appends_congr {i : Instr} {s : State} {n : Nat} {f f' : Nat → Code} (h : Appends i s n f)
    (hf : ∀ k < n, f k = f' k) : Appends i s n f' := by
  rwa [Appends, map_range_congr hf] at h

/-- Appending no sample changes nothing (R131). -/
theorem exec_eq_of_appends_zero {i : Instr} {s : State} {n : Nat} {f : Nat → Code} (h : Appends i s n f) (hn : n = 0) :
    exec i s = .next s := by
  subst hn
  simpa [Appends] using h

/-! ## Headers (R74-R76) -/

theorem repsField_eq_ofNat (w : Word) : repsField w = BitVec.ofNat 6 (w.toNat / 2 ^ 16) :=
  BitVec.eq_of_toNat_eq ((repsField_toNat w).trans (BitVec.toNat_ofNat ..).symm)

/-- The bits above REPS are the opcode of the sync blocks and PWSEL (R74). -/
theorem opc_pwsel_of_div {w : Word} {sel : Nat} (hs : sel < 4) (hw : w.toNat / 2 ^ 22 = 0x40 + sel) :
    opc w = 0x10#8 ∧ pwsel w = BitVec.ofNat 2 sel :=
  ⟨eq_ofNat_of_toNat_eq ((opc_toNat w).trans (by omega)), eq_ofNat_of_toNat_eq ((pwsel_toNat w).trans (by omega))⟩

theorem headerEmitBroad_eq_ofNat (reps : BitVec 6) :
    headerEmitBroad reps = BitVec.ofNat 32 (0x10000000 + reps.toNat * 2 ^ 16) :=
  eq_ofNat_of_toNat_eq ((headerVS_toNat 0#2 reps 0#16).trans (by simp))

theorem headerEmitShort_eq_ofNat (reps : BitVec 6) :
    headerEmitShort reps = BitVec.ofNat 32 (0x10400000 + reps.toNat * 2 ^ 16) :=
  eq_ofNat_of_toNat_eq ((headerVS_toNat 1#2 reps 0#16).trans (by simp))

theorem headerEmitPulse_eq_ofNat (reps : BitVec 6) (pw : BitVec 16) :
    headerEmitPulse reps pw = BitVec.ofNat 32 (0x10800000 + reps.toNat * 2 ^ 16 + pw.toNat) :=
  eq_ofNat_of_toNat_eq ((headerVS_toNat 2#2 reps pw).trans (by simp))

theorem headerEmitActive_eq_ofNat (len : BitVec 16) : headerEmitActive len = BitVec.ofNat 32 (0x13000000 + len.toNat) :=
  eq_ofNat_of_toNat_eq (headerImm_toNat 0x13#8 len)

/-! ## The meanings, each with its header as a number -/

theorem exec_emitBroad (reps : BitVec 6) (s : State) : exec (.emitBroad reps) s =
    .next (emitFrame (BitVec.ofNat 32 (0x10000000 + reps.toNat * 2 ^ 16)) none (reps.toNat * s.halfLine)
      (syncBlock s.halfBroad.toNat s.halfLine reps.toNat) s) := by
  rw [← headerEmitBroad_eq_ofNat]; rfl

theorem exec_emitShort (reps : BitVec 6) (s : State) : exec (.emitShort reps) s =
    .next (emitFrame (BitVec.ofNat 32 (0x10400000 + reps.toNat * 2 ^ 16)) none (reps.toNat * s.halfLine)
      (syncBlock s.halfShort.toNat s.halfLine reps.toNat) s) := by
  rw [← headerEmitShort_eq_ofNat]; rfl

theorem exec_emitPulse (reps : BitVec 6) (pw : BitVec 16) (s : State) : exec (.emitPulse reps pw) s =
    .next (emitFrame (BitVec.ofNat 32 (0x10800000 + reps.toNat * 2 ^ 16 + pw.toNat)) (pulseFault pw s)
      (reps.toNat * s.halfLine) (syncBlock pw.toNat s.halfLine reps.toNat) s) := by
  rw [← headerEmitPulse_eq_ofNat]; rfl

theorem exec_emitBlank (s : State) : exec .emitBlank s =
    .next (emitFrame 0x11000000#32 none s.halfLine (rep s.halfLine codeBlank) s) := rfl

theorem exec_emitSynced (s : State) : exec .emitSynced s =
    .next (emitFrame 0x12000000#32 none s.halfLine (syncedHalfLine s) s) := rfl

theorem exec_emitActive (len : BitVec 16) (payload : List Word) (s : State) : exec (.emitActive len payload) s =
    .next (emitFrame (BitVec.ofNat 32 (0x13000000 + len.toNat)) (rowFault len s) s.scanlineSamples.toNat
      (activeScanline len payload s) s) := by
  rw [← headerEmitActive_eq_ofNat]; rfl

theorem pulseFault_eq_some {pw : BitVec 16} {s : State} (h : s.halfLine < pw.toNat) :
    pulseFault pw s = some .segmentUnderflow := if_pos h

theorem rowFault_eq_some {len : BitVec 16} {s : State} (h : len ≠ s.ppl) : rowFault len s = some .malformedRow := if_neg h

/-! ## Profiles of one PPL, the same in both modes (R113) -/

section
variable {s : State} (h : s.ProfileInv) (hc : s.configured = true)
include h hc

theorem State.ProfileInv.profile_eq_exact {n : BitVec 16} (hn : s.ppl = n) (hex : n.toNat ∉ binary64Exceptions) :
    s.profile = profileExact n.toNat := by
  obtain ⟨h1, hp⟩ := (State.profileInv_iff_of_configured hc).1 h
  subst hn
  exact hp.trans (timingProfile_eq_exact h1 s.ppl.isLt hex _)

theorem State.ProfileInv.profile_1 (hn : s.ppl = 1#16) : s.profile = ⟨0, 0, 0, 1, 0, 0, 15625, 19249⟩ :=
  (h.profile_eq_exact hc hn (by decide)).trans (by decide)

theorem State.ProfileInv.profile_2 (hn : s.ppl = 2#16) : s.profile = ⟨0, 0, 0, 2, 0, 1, 31250, 38498⟩ :=
  (h.profile_eq_exact hc hn (by decide)).trans (by decide)

theorem State.ProfileInv.profile_208 (hn : s.ppl = 208#16) : s.profile = ⟨6, 18, 22, 254, 9, 109, 3968750, 4003849⟩ :=
  (h.profile_eq_exact hc hn (by decide)).trans (by decide)

theorem State.ProfileInv.halfLine_1 (hn : s.ppl = 1#16) : s.halfLine = 0 :=
  congrArg (fun p => p.scanlineSamples / 2) (h.profile_1 hc hn)

theorem State.ProfileInv.halfLine_208 (hn : s.ppl = 208#16) : s.halfLine = 127 :=
  congrArg (fun p => p.scanlineSamples / 2) (h.profile_208 hc hn)

end

end Sys2Proof.Machine
end

section
/-! SUPPORT. The sync blocks (R134-R136): EMIT_BROAD and EMIT_SHORT take the width of their pulses from the profile,
EMIT_PULSE from its operand. -/

namespace Sys2Proof.Machine

open Sys2Proof Sys2Proof.Spec

/-! ## What the three commands append (R133) -/

section
variable {i : Instr} {s : State} {header : Word} {check : Option FaultCode} {reps pw : Nat}
  (hx : exec i s = .next (emitFrame header check (reps * s.halfLine) (syncBlock pw s.halfLine reps) s))
  (hc : s.configured = true) (hk : check = none)
include hx hc hk

theorem appends_syncBlock {w h : Nat} (hw : pw = w) (hh : s.halfLine = h) (hle : w ≤ h) (hg : Fits s (reps * h)) :
    Appends i s (reps * h) (pulseSample w h) := by
  subst hw hh
  exact appends_of_fits hx hc hk hg (syncBlock_eq_map hle reps)

theorem exec_syncBlock_of_no_reps (h0 : reps = 0) (hg : Fits s 0) : exec i s = .next s := by
  subst h0
  have hnone : 0 * s.halfLine = 0 := Nat.zero_mul _
  have happ : Appends i s (0 * s.halfLine) fun _ => 0#12 :=
    appends_of_fits hx hc hk (by rwa [hnone]) (by rw [hnone]; rfl)
  exact exec_eq_of_appends_zero happ hnone

end

/-! ## Encodings (R74, R78) -/

theorem decodeCommand_emitBroad_of_mask {w : Word} (payload : List Word) (hw : w &&& 0xFFC0FFFF#32 = 0x10000000#32) :
    decodeCommand w payload = .ok (.emitBroad (BitVec.ofNat 6 (w.toNat / 2 ^ 16))) := by
  obtain ⟨hsel, himm⟩ := (selImmMask_eq_iff (by decide)).1 hw
  obtain ⟨hopc, hpwsel⟩ := opc_pwsel_of_div (sel := 0) (by decide) hsel
  rw [← repsField_eq_ofNat]
  exact (commandForm_emitBroad payload hopc hpwsel (eq_ofNat_of_toNat_eq ((imm16_toNat w).trans himm))).decodeCommand_eq

theorem decodeCommand_emitShort_of_mask {w : Word} (payload : List Word) (hw : w &&& 0xFFC0FFFF#32 = 0x10400000#32) :
    decodeCommand w payload = .ok (.emitShort (BitVec.ofNat 6 (w.toNat / 2 ^ 16))) := by
  obtain ⟨hsel, himm⟩ := (selImmMask_eq_iff (by decide)).1 hw
  obtain ⟨hopc, hpwsel⟩ := opc_pwsel_of_div (sel := 1) (by decide) hsel
  rw [← repsField_eq_ofNat]
  exact (commandForm_emitShort payload hopc hpwsel (eq_ofNat_of_toNat_eq ((imm16_toNat w).trans himm))).decodeCommand_eq

theorem decodeCommand_emitPulse_of_mask {w : Word} (payload : List Word) (hw : w &&& 0xFFC00000#32 = 0x10800000#32) :
    decodeCommand w payload =
      .ok (.emitPulse (BitVec.ofNat 6 (w.toNat / 2 ^ 16)) (BitVec.ofNat 16 w.toNat)) := by
  obtain ⟨hopc, hpwsel⟩ := opc_pwsel_of_div (sel := 2) (by decide) ((selMask_eq_iff (by decide)).1 hw)
  rw [← repsField_eq_ofNat, ← imm16_eq_ofNat]
  exact (commandForm_emitPulse payload hopc hpwsel).decodeCommand_eq

/-- A sync block of a profile's width with bits in its reserved field is of no row (R78 d). -/
theorem decodeCommand_error_of_reserved {w : Word} (payload : List Word)
    (hsel : w.toNat / 2 ^ 22 = 0x40 ∨ w.toNat / 2 ^ 22 = 0x41) (himm : w.toNat % 2 ^ 16 ≠ 0) :
    decodeCommand w payload = .error .illegalCommand :=
  decodeCommand_of_no_row payload ((no_row_iff w).2 (.inr (.inr (.inr (.inr ⟨by omega, by omega, himm⟩)))))

theorem decodeCommand_error_of_pwsel_3 {w : Word} (payload : List Word) (hsel : w.toNat / 2 ^ 22 = 0x43) :
    decodeCommand w payload = .error .illegalCommand :=
  decodeCommand_of_no_row payload ((no_row_iff w).2 (.inr (.inr (.inr (.inl ⟨by omega, by omega⟩)))))

/-! ## The statements -/

/-- Settles O21: HALF_BROAD fits the half-line of every profile. -/
theorem emitBroadAppendsBroadPulses : Obligations.EmitBroadAppendsBroadPulses := by
  refine ⟨fun image => rfl, fun w payload => decodeCommand_emitBroad_of_mask payload,
    fun w payload hsel => decodeCommand_error_of_reserved payload (.inl hsel), fun reps s => ?_, fun s hc hg => ?_,
    fun reps s h hc hn hg => ?_, fun reps s h hc hn hg => ?_, fun s h hc hn hg => ?_⟩
  · have hx := exec_emitBroad reps s
    exact ⟨faults_notConfigured hx, fun hc => faults_bufferOverflow hx hc rfl,
      fun h hc => appends_syncBlock hx hc rfl rfl rfl (h.halfBroad_le_halfLine hc)⟩
  · exact exec_syncBlock_of_no_reps (exec_emitBroad 0#6 s) hc rfl rfl hg
  · have hh := h.halfLine_1 hc hn
    have hw : s.halfBroad.toNat = 0 := congrArg TimingProfile.halfBroad (h.profile_1 hc hn)
    exact exec_eq_of_appends_zero (appends_syncBlock (exec_emitBroad reps s) hc rfl hw hh le_rfl hg) (Nat.mul_zero _)
  · have hh : s.halfLine = 1 := congrArg (fun p => p.scanlineSamples / 2) (h.profile_2 hc hn)
    have hw : s.halfBroad.toNat = 1 := congrArg TimingProfile.halfBroad (h.profile_2 hc hn)
    have happ := appends_syncBlock (exec_emitBroad reps s) hc rfl hw hh le_rfl (by rwa [Nat.mul_one])
    have hall := appends_congr happ fun k hk => pulseSample_self hk
    rwa [Nat.mul_one] at hall
  · have hh := h.halfLine_208 hc hn
    have hw : s.halfBroad.toNat = 109 := congrArg TimingProfile.halfBroad (h.profile_208 hc hn)
    have hcount : (5#6).toNat * 127 = 635 := by decide
    rw [← hcount] at hg ⊢
    exact appends_syncBlock (exec_emitBroad 5#6 s) hc rfl hw hh (by decide) hg

/-- Settles O22: HALF_SHORT fits the half-line of every profile, and is 0 below 23 pixels. -/
theorem emitShortAppendsShortPulses : Obligations.EmitShortAppendsShortPulses := by
  refine ⟨fun image => rfl, fun w payload => decodeCommand_emitShort_of_mask payload,
    fun w payload hsel => decodeCommand_error_of_reserved payload (.inr hsel), fun reps s => ?_, fun s hc hg => ?_,
    fun reps s h hc hn hg => ?_, fun s h hc hn hg => ?_⟩
  · have hx := exec_emitShort reps s
    exact ⟨faults_notConfigured hx, fun hc => faults_bufferOverflow hx hc rfl,
      fun h hc => appends_syncBlock hx hc rfl rfl rfl (h.halfShort_le_halfLine hc)⟩
  · exact exec_syncBlock_of_no_reps (exec_emitShort 0#6 s) hc rfl rfl hg
  · have hw : s.halfShort.toNat = 0 := by
      have hexact : s.halfShort.toNat = 47 * s.ppl.toNat / 1039 := (h.countsNearExact hc).halfShort.2.2 (by omega)
      omega
    exact appends_congr (appends_syncBlock (exec_emitShort reps s) hc rfl hw rfl (Nat.zero_le _) hg)
      fun k _ => pulseSample_zero _ k
  · have hh := h.halfLine_208 hc hn
    have hw : s.halfShort.toNat = 9 := congrArg TimingProfile.halfShort (h.profile_208 hc hn)
    have hcount : (5#6).toNat * 127 = 635 := by decide
    rw [← hcount] at hg ⊢
    exact appends_syncBlock (exec_emitShort 5#6 s) hc rfl hw hh (by decide) hg

theorem assemble_emitPulse_default (image : SourceImage) (width : BitVec 16) :
    Asm.assemble image (.emitPulse width.toNat none) = some [.emitPulse 5#6 width] := by
  have hreps : Asm.repsOf none = some 5#6 := rfl
  simp [Asm.assemble, hreps, field_eq_some width.isLt]

/-- Settles O23: the width is checked before the capacity, whatever the repetitions. -/
theorem emitPulseAppendsItsWidth : Obligations.EmitPulseAppendsItsWidth := by
  refine ⟨assemble_emitPulse_default, fun w payload => decodeCommand_emitPulse_of_mask payload,
    fun w payload => decodeCommand_error_of_pwsel_3 payload, fun reps pw s => ?_, fun reps s hc hg => ?_,
    fun reps pw s hc hw hg => ?_, fun s h hc hn => ?_⟩
  · have hx := exec_emitPulse reps pw s
    exact ⟨faults_notConfigured hx, fun hc hlt => faults_of_check hx hc (pulseFault_eq_some hlt),
      fun hc hle => faults_bufferOverflow hx hc (pulseFault_eq_none.2 hle),
      fun hc hle => appends_syncBlock hx hc (pulseFault_eq_none.2 hle) rfl rfl hle⟩
  · have hle : (0#16).toNat ≤ s.halfLine := Nat.zero_le _
    exact appends_congr (appends_syncBlock (exec_emitPulse reps 0#16 s) hc (pulseFault_eq_none.2 hle) rfl rfl hle hg)
      fun k _ => pulseSample_zero _ k
  · have hh : s.halfLine = pw.toNat := hw.symm
    exact appends_congr (appends_syncBlock (exec_emitPulse reps pw s) hc (pulseFault_eq_none.2 hh.ge) rfl hh le_rfl hg)
      fun k hk => pulseSample_self hk
  · have hh := h.halfLine_208 hc hn
    refine ⟨fun hg => ?_, faults_of_check (exec_emitPulse 1#6 128#16 s) hc (pulseFault_eq_some (by rw [hh]; decide))⟩
    have hle : (18#16).toNat ≤ s.halfLine := by rw [hh]; decide
    refine appends_congr (appends_syncBlock (exec_emitPulse 1#6 18#16 s) hc (pulseFault_eq_none.2 hle) rfl hh (by decide) hg)
      fun k hk => ?_
    rw [pulseSample, Nat.mod_eq_of_lt hk]
    rfl

end Sys2Proof.Machine
end

section
/-! SUPPORT. The half-lines and the scanline: EMIT_BLANK, EMIT_SYNCED and EMIT_ACTIVE (R137-R139). -/

namespace Sys2Proof.Machine

open Sys2Proof Sys2Proof.Spec

/-! ## Encodings (R72, R75, R78) -/

theorem decodeCommand_emitBlank_iff (w : Word) (payload : List Word) :
    decodeCommand w payload = .ok .emitBlank ↔ w = 0x11000000#32 := by
  refine decodeCommand_eq_ok_iff.trans ⟨fun hw => ?_, fun hw => ?_⟩
  · cases hw; rfl
  · subst hw; exact .emitBlank

theorem decodeCommand_emitSynced_iff (w : Word) (payload : List Word) :
    decodeCommand w payload = .ok .emitSynced ↔ w = 0x12000000#32 := by
  refine decodeCommand_eq_ok_iff.trans ⟨fun hw => ?_, fun hw => ?_⟩
  · cases hw; rfl
  · subst hw; exact .emitSynced

/-- A word of a body-less opcode with bits in its body is of no row (R78 b). -/
theorem decodeCommand_error_of_body {w : Word} (payload : List Word)
    (hopc : w.toNat / 2 ^ 24 ∈ [0x00, 0x11, 0x12, 0x30]) (hbody : w.toNat % 2 ^ 24 ≠ 0) :
    decodeCommand w payload = .error .illegalCommand :=
  decodeCommand_of_no_row payload ((no_row_iff w).2 (.inr (.inl ⟨hopc, hbody⟩)))

theorem decodeCommand_emitActive_of_mask {w : Word} (payload : List Word) (hw : w &&& 0xFFFF0000#32 = 0x13000000#32) :
    decodeCommand w payload = .ok (.emitActive (BitVec.ofNat 16 w.toNat) payload) := by
  have hhigh : w.toNat / 2 ^ 16 = 0x1300 := (immMask_eq_iff (by decide)).1 hw
  have hopc : opc w = 0x13#8 := eq_ofNat_of_toNat_eq ((opc_toNat w).trans (by omega))
  have hreserved : reservedByte w = 0#8 := eq_ofNat_of_toNat_eq ((reservedByte_toNat w).trans (by omega))
  rw [← imm16_eq_ofNat]
  exact (commandForm_emitActive payload hopc hreserved).decodeCommand_eq

/-! ## EMIT_BLANK and EMIT_SYNCED (R137, R138) -/

theorem appends_emitBlank {s : State} (hc : s.configured = true) {h : Nat} (hh : s.halfLine = h) (hg : Fits s h) :
    Appends .emitBlank s h fun _ => 765#12 := by
  subst hh
  exact appends_of_fits (exec_emitBlank s) hc rfl hg (rep_eq_map _ _)

/-- Settles O24: BLANK to the end of the half-line. -/
theorem emitBlankAppendsHalfLine : Obligations.EmitBlankAppendsHalfLine := by
  refine ⟨decodeCommand_emitBlank_iff, fun w payload hopc => decodeCommand_error_of_body payload (by rw [hopc]; decide),
    fun s => ⟨faults_notConfigured (exec_emitBlank s), fun hc => faults_bufferOverflow (exec_emitBlank s) hc rfl,
      fun hc => appends_emitBlank hc rfl⟩, fun s h hc hn hg => ?_, fun s k hc hk hg => ?_, fun s h hc hn hg => ?_⟩
  · exact exec_eq_of_appends_zero (appends_emitBlank hc (h.halfLine_1 hc hn) hg) rfl
  · have hh : s.halfLine = k := by
      rw [State.halfLine, hk]
      omega
    exact appends_emitBlank hc hh hg
  · exact appends_emitBlank hc (h.halfLine_208 hc hn) hg

theorem appends_emitSynced {s : State} (hp : s.ProfileInv) (hc : s.configured = true) {h w : Nat} (hh : s.halfLine = h)
    (hw : s.hsyncPulse.toNat = w) (hg : Fits s h) :
    Appends .emitSynced s h fun k => if k < w then 0#12 else 765#12 := by
  subst hh hw
  exact appends_of_fits (exec_emitSynced s) hc rfl hg (syncedHalfLine_eq_map hp hc)

/-- Settles O25: sync pulse and back porch fit the half-line of every profile, and there is no pulse below 12 pixels. -/
theorem emitSyncedAppendsSyncedHalfLine : Obligations.EmitSyncedAppendsSyncedHalfLine := by
  refine ⟨decodeCommand_emitSynced_iff, fun w payload hopc => decodeCommand_error_of_body payload (by rw [hopc]; decide),
    fun s => ⟨faults_notConfigured (exec_emitSynced s), fun hc => faults_bufferOverflow (exec_emitSynced s) hc rfl,
      fun h hc => appends_emitSynced h hc rfl rfl⟩, fun s h hc hn hg => ?_, fun s h hc hn hg => ?_⟩
  · have hw : s.hsyncPulse.toNat = 0 := by
      have hexact : s.hsyncPulse.toNat = 94 * s.ppl.toNat / 1039 := (h.countsNearExact hc).hsyncPulse.2.2 (by omega)
      omega
    exact appends_congr (appends_emitSynced h hc rfl hw hg) fun k _ => if_neg (Nat.not_lt_zero k)
  · have hh := h.halfLine_208 hc hn
    have hw : s.hsyncPulse.toNat = 18 := congrArg TimingProfile.hsyncPulse (h.profile_208 hc hn)
    exact appends_emitSynced h hc hh hw hg

/-! ## EMIT_ACTIVE (R139) -/

theorem appends_emitActive {s : State} (h : s.ProfileInv) (hc : s.configured = true) {len : BitVec 16}
    (hlen : len = s.ppl) {payload : List Word} (hp : payload.length = payloadWordsOfLen len) {g : Nat}
    (hS : s.scanlineSamples.toNat = g) (hg : Fits s g) :
    Appends (.emitActive len payload) s g (activeSample s payload) := by
  subst hlen hS
  exact appends_of_fits (exec_emitActive s.ppl payload s) hc (rowFault_eq_none.2 rfl) hg (activeScanline_eq_map h hc hp)

/-- The words of an EMIT_ACTIVE are complete with the last payload word that LEN asks for (R79). -/
theorem complete_emitActive_iff (len : BitVec 16) (payload : List Word) :
    complete (BitVec.ofNat 32 (0x13000000 + len.toNat) :: payload) = true ↔ payload.length = payloadWordsOfLen len := by
  rw [← headerEmitActive_eq_ofNat, complete_cons_iff, payloadWords_headerEmitActive]

theorem decode_emitActive {len : BitVec 16} {payload : List Word} (hp : payload.length = payloadWordsOfLen len) :
    decode (.command (BitVec.ofNat 32 (0x13000000 + len.toNat) :: payload)) = .ok (.emitActive len payload) := by
  rw [← headerEmitActive_eq_ofNat]
  exact decode_eq_ok_iff.2 ⟨rfl, beq_iff_eq.2 hp⟩

/-- The words of a row as the port receives them (R55): each is kept, and the last one runs the command. -/
theorem step_emitActive_word {len : BitVec 16} {payload : List Word} {s : State} {w : Word} {rest : List HostAction}
    (hq : NextWord s w rest) (hf : s.faulted = false)
    (hasm : s.cmdAsm = BitVec.ofNat 32 (0x13000000 + len.toNat) :: payload) :
    (payload.length + 1 < payloadWordsOfLen len →
        step s = .next { s with hostQueue := rest, cmdAsm := s.cmdAsm ++ [w] }) ∧
      (payload.length + 1 = payloadWordsOfLen len →
        step s = afterCommand
          (exec (.emitActive len (payload ++ [w])) { s with hostQueue := rest, cmdAsm := s.cmdAsm ++ [w] })) := by
  have hwords : s.cmdAsm ++ [w] = BitVec.ofNat 32 (0x13000000 + len.toNat) :: (payload ++ [w]) := by rw [hasm]; rfl
  have hlength : (payload ++ [w]).length = payload.length + 1 := List.length_append
  refine ⟨fun hlt => ?_, fun heq => ?_⟩
  · refine step_commandWord_incomplete hq hf (Bool.eq_false_iff.2 fun hcomplete => ?_)
    rw [hwords, complete_emitActive_iff] at hcomplete
    omega
  · refine stepRunsTheDecodedCommand s w rest _ hq hf ?_
    rw [hwords]
    exact decode_emitActive (hlength.trans heq)

/-- Byte k of a row of words that are all ones. -/
theorem pixelByte_replicate_allOnes {n k : Nat} (hk : k < 4 * n) :
    pixelByte (List.replicate n 0xFFFFFFFF#32) k = 255 := by
  rw [pixelByte, List.getElem?_replicate_of_lt (by omega), Option.getD_some]
  obtain hr | hr | hr | hr : k % 4 = 0 ∨ k % 4 = 1 ∨ k % 4 = 2 ∨ k % 4 = 3 := by omega
  all_goals rw [hr]; decide

/-- Settles O26: LEN is PPL or the row is malformed, and the segments of a scanline add up to SCANLINE_SAMPLES. -/
theorem emitActiveAppendsScanline : Obligations.EmitActiveAppendsScanline := by
  refine ⟨fun w payload hw => ?_, fun w payload hopc hreserved => ?_, fun len payload s => ?_,
    fun len payload s w rest => step_emitActive_word, fun payload s h hc => ?_, fun p s h hc hn hg => ?_,
    fun s h hc hn hg => ?_⟩
  · have hd := decodeCommand_emitActive_of_mask payload hw
    have hlength := commandLengthIsFixedByHeader.1 w payload _ _ hd
    rw [BitVec.toNat_ofNat] at hlength
    exact ⟨hd, hlength⟩
  · have hd := decodeCommand_of_no_row payload
      ((no_row_iff w).2 (.inr (.inr (.inl ⟨by rw [hopc]; decide, hreserved⟩))))
    exact ⟨hd, commandLength_of_decodeCommand_error hd⟩
  · have hx := exec_emitActive len payload s
    exact ⟨faults_notConfigured hx, fun hc hlen => faults_of_check hx hc (rowFault_eq_some hlen),
      fun hc hlen => faults_bufferOverflow hx hc (rowFault_eq_none.2 hlen),
      fun h hc hlen hp => appends_emitActive h hc hlen hp rfl⟩
  · obtain ⟨hpos, -⟩ := (State.profileInv_iff_of_configured hc).1 h
    refine faults_of_check (exec_emitActive 0#16 payload s) hc (rowFault_eq_some fun hzero => ?_)
    rw [← hzero] at hpos
    cases hpos
  · have hprofile := h.profile_1 hc hn
    have hS : s.scanlineSamples.toNat = 1 := congrArg TimingProfile.scanlineSamples hprofile
    have hHS : s.hsyncPulse.toNat = 0 := congrArg TimingProfile.hsyncPulse hprofile
    have hBP : s.backPorch.toNat = 0 := congrArg TimingProfile.backPorch hprofile
    refine appends_congr (appends_emitActive h hc hn.symm rfl hS hg) fun k hk => ?_
    obtain rfl : k = 0 := by omega
    simp [activeSample, hHS, hBP, hn, pixelByte]
  · have hprofile := h.profile_208 hc hn
    have hS : s.scanlineSamples.toNat = 254 := congrArg TimingProfile.scanlineSamples hprofile
    have hHS : s.hsyncPulse.toNat = 18 := congrArg TimingProfile.hsyncPulse hprofile
    have hBP : s.backPorch.toNat = 22 := congrArg TimingProfile.backPorch hprofile
    have hPPL : s.ppl.toNat = 208 := congrArg BitVec.toNat hn
    refine appends_congr (appends_emitActive h hc hn.symm rfl hS hg) fun k _ => ?_
    rw [activeSample, hHS, hBP, hPPL]
    split_ifs with hsync hporch hpixel
    · rfl
    · rfl
    · rw [pixelByte_replicate_allOnes (by omega)]
    · rfl

end Sys2Proof.Machine
end

section
/-! SUPPORT. What the six EMIT commands have in common (R140, R141): one frame, and samples that the profile and the
command fix. -/

namespace Sys2Proof.Machine

open Sys2Proof Sys2Proof.Spec

/-- The check of its operand that a command makes after NOT_CONFIGURED (R130). -/
def operandFault (s : State) : Instr → Option FaultCode
  | .emitPulse _ pw => pulseFault pw s
  | .emitActive len _ => rowFault len s
  | _ => none

/-- The samples of a command in a profile (R134-R139). -/
def emitCodes (s : State) : Instr → List Code
  | .emitBroad reps => syncBlock s.halfBroad.toNat s.halfLine reps.toNat
  | .emitShort reps => syncBlock s.halfShort.toNat s.halfLine reps.toNat
  | .emitPulse reps pw => syncBlock pw.toNat s.halfLine reps.toNat
  | .emitBlank => rep s.halfLine codeBlank
  | .emitSynced => syncedHalfLine s
  | .emitActive len payload => activeScanline len payload s
  | .nop => []
  | .configure _ => []
  | .bufHandoff => []
  | .ttNone => []
  | .ttParity _ => []
  | .ttHamming _ => []
  | .ttPktaddr _ _ => []

/-- Every EMIT command is the frame around its own check, growth and samples. -/
theorem exec_emit {i : Instr} (hi : IsEmit i) (s : State) :
    ∃ header, exec i s = .next (emitFrame header (operandFault s i) (growth s i) (emitCodes s i) s) := by
  rcases hi with ⟨reps, rfl⟩ | ⟨reps, rfl⟩ | ⟨reps, pw, rfl⟩ | rfl | rfl | ⟨len, payload, rfl⟩
  all_goals exact ⟨_, rfl⟩

theorem operandFault_ne_some_none (s : State) (i : Instr) : operandFault s i ≠ some .none := by
  unfold operandFault
  split
  · unfold pulseFault
    split <;> decide
  · unfold rowFault
    split <;> decide
  · decide

/-- Every way an EMIT command can end: a fault entry, or its samples appended where they fit. -/
theorem exec_emit_cases {i : Instr} (hi : IsEmit i) {s t : State} (h : exec i s = .next t) :
    (∃ code header, code ≠ .none ∧ t = s.raiseFault code header) ∨
      (s.configured = true ∧ operandFault s i = none ∧ Fits s (growth s i) ∧ t = s.appendCodes (emitCodes s i)) := by
  obtain ⟨header, hx⟩ := exec_emit hi s
  rw [hx] at h
  cases h
  rcases emitFrame_cases header (operandFault s i) (growth s i) (emitCodes s i) s with ⟨-, e⟩ | ⟨code, -, hk, e⟩ |
    ⟨-, -, -, e⟩ | ⟨hc, hk, hg, e⟩
  · exact .inl ⟨_, _, by decide, e⟩
  · exact .inl ⟨code, _, fun hnone => operandFault_ne_some_none s i (hnone ▸ hk), e⟩
  · exact .inl ⟨_, _, by decide, e⟩
  · exact .inr ⟨hc, hk, hg, e⟩

/-- An EMIT command that leaves STATUS.FAULT clear has appended its samples. -/
theorem exec_emit_succeeds {i : Instr} (hi : IsEmit i) {s t : State} (h : exec i s = .next t) (ht : t.faulted = false) :
    s.configured = true ∧ operandFault s i = none ∧ Fits s (growth s i) ∧ t = s.appendCodes (emitCodes s i) := by
  rcases exec_emit_cases hi h with ⟨code, header, -, rfl⟩ | hsucceeds
  · cases ht
  · exact hsucceeds

/-! ## The samples depend on the profile and the command alone (R141) -/

/-- The samples of a command, from the values of the profile. -/
theorem emitCodes_congr {s s' : State} (h : SameProfile s s') (i : Instr) : emitCodes s' i = emitCodes s i := by
  obtain ⟨-, hp⟩ := h
  simp only [State.profile, TimingProfile.mk.injEq] at hp
  obtain ⟨hFP, hHS, hBP, hS, hShort, hBroad, -, -⟩ := hp
  have hH : s'.halfLine = s.halfLine := by rw [State.halfLine, hS, State.halfLine]
  cases i with
  | emitBroad reps => simp only [emitCodes, hBroad, hH]
  | emitShort reps => simp only [emitCodes, hShort, hH]
  | emitPulse reps pw => simp only [emitCodes, hH]
  | emitBlank => simp only [emitCodes, hH]
  | emitSynced => simp only [emitCodes, syncedHalfLine, hHS, hBP, hH]
  | emitActive len payload => simp only [emitCodes, activeScanline, hHS, hBP, hFP]
  | _ => rfl

/-- Settles O30: the frame ends in a fault entry or in the samples, and equal profiles have equal samples. -/
theorem emitChangesBufferOrFaultState : Obligations.EmitChangesBufferOrFaultState := by
  refine ⟨fun i s hi => ?_, fun i s s' t t' hi hsame h h' ht ht' => ?_⟩
  · obtain ⟨t, h⟩ := exec_answers_next i s
    rcases exec_emit_cases hi h with ⟨code, header, hcode, rfl⟩ | ⟨-, -, -, rfl⟩
    · exact .inr ⟨code, header, hcode, h⟩
    · exact .inl ⟨emitCodes s i, h⟩
  · obtain ⟨-, -, -, rfl⟩ := exec_emit_succeeds hi h ht
    obtain ⟨-, -, -, rfl⟩ := exec_emit_succeeds hi h' ht'
    exact ⟨emitCodes s i, rfl, by rw [← emitCodes_congr hsame i]; rfl⟩

/-! ## Growth (R140) -/

/-- A command that passes its own check has as many samples as its growth. -/
theorem length_emitCodes {s : State} (h : s.ProfileInv) (hc : s.configured = true) {i : Instr} (hi : IsEmit i)
    (hwf : i.WellFormed) (hk : operandFault s i = none) : (emitCodes s i).length = growth s i := by
  rcases hi with ⟨reps, rfl⟩ | ⟨reps, rfl⟩ | ⟨reps, pw, rfl⟩ | rfl | rfl | ⟨len, payload, rfl⟩
  · exact length_syncBlock (h.halfBroad_le_halfLine hc) _
  · exact length_syncBlock (h.halfShort_le_halfLine hc) _
  · exact length_syncBlock (pulseFault_eq_none.1 hk) _
  · exact length_rep _ _
  · exact length_syncedHalfLine h hc
  · obtain rfl := rowFault_eq_none.1 hk
    have hsamples : emitCodes s (.emitActive s.ppl payload) = _ := activeScanline_eq_map h hc (beq_iff_eq.1 hwf)
    rw [hsamples, List.length_map, List.length_range]
    rfl

/-- Settles O31: the samples are as many as CheckCap allowed, so the count does not wrap. -/
theorem growthIsKnownAheadOfTime : Obligations.GrowthIsKnownAheadOfTime := by
  intro i s t hs hi hwf h ht
  obtain ⟨hc, hk, hg, rfl⟩ := exec_emit_succeeds hi h ht
  have hlength := length_emitCodes hs.profile hc hi hwf hk
  have hfits : s.sampleCount.toNat + growth s i < 2 ^ 32 := lt_of_le_of_lt hg s.config.bufCap.isLt
  refine ⟨?_, ?_⟩
  · rw [State.appendCodes_sampleBuf, List.length_append, hlength]
  · rw [State.appendCodes_sampleCount, BitVec.toNat_add, BitVec.toNat_ofNat, hlength, Nat.add_mod_mod,
      Nat.mod_eq_of_lt hfits]

end Sys2Proof.Machine
end

section
/-! SUPPORT. The amplitudes of the codes: exact (R132), and as the host's binary64 conversion has them (R142). -/

namespace Sys2Proof.Machine

open Sys2Proof

/-! ## Exact amplitudes (R132) -/

theorem amplitude_codePixel (p : Byte) : amplitude (codePixel p) = (p.toNat / 255 : ℚ) * (7 / 10) + 3 / 10 := by
  rw [amplitude, codePixel_toNat]
  push_cast
  ring

/-- Settles O28: 2550 divides the levels evenly. -/
theorem pixelCodesAreTheLinearMapping : Obligations.PixelCodesAreTheLinearMapping := by
  have hblank : codePixel 0#8 = codeBlank := by decide
  refine ⟨?_, ?_, fun p => ⟨codePixel_toNat p, amplitude_codePixel p, isAmplitudeCode_codePixel p⟩, hblank, ?_⟩
  · simp [amplitude, codeSync]
  · rw [← hblank, amplitude_codePixel]
    norm_num
  · rw [amplitude_codePixel]
    norm_num

/-! ## Binary64 amplitudes (R142) -/

theorem amplitude64_codePixel (p : Byte) : amplitude64 (codePixel p) = some (pixelAmplitude64 p.toNat) := by
  have hp := p.isLt
  have hcode := codePixel_toNat p
  have hsync : codePixel p ≠ codeSync := fun h => by
    rw [h] at hcode
    simp [codeSync] at hcode
    omega
  rw [amplitude64, if_neg hsync, hcode, if_pos (by omega), Nat.add_sub_cancel_left, Nat.mul_div_cancel_left _ (by decide)]

theorem pixelAmplitude64_black : pixelAmplitude64 0 = b64Blank := by decide +kernel

theorem pixelAmplitude64_white : pixelAmplitude64 255 = ⟨2 ^ 52, -52⟩ := by decide +kernel

/-- Settles O29: the codes of the commands are the pixel codes and SYNC, and the two ends of the scale round as stated. -/
theorem hostAmplitudesAreTheRoundedFormula : Obligations.HostAmplitudesAreTheRoundedFormula := by
  refine ⟨rfl, amplitude64_codePixel, ?_, ⟨2 ^ 52, -52⟩, ?_, ?_⟩
  · exact (amplitude64_codePixel 0#8).trans (congrArg some pixelAmplitude64_black)
  · exact (amplitude64_codePixel 255#8).trans (congrArg some pixelAmplitude64_white)
  · rw [Binary64.toRat_eq]
    norm_num

end Sys2Proof.Machine
end

section
/-! SUPPORT. The codes of the teletext port (R192-R196): parity as the weight of a byte, the codewords of the codebook
and what their distance corrects, the packet address, and the port's independence of the engine (R197, R199). -/

namespace Sys2Proof.Machine

open Sys2Proof Sys2Proof.Spec

/-! ## A word at the port (R190, R197, R199) -/

/-- Settles O10: an operation drives the word it is decoded from. -/
theorem stepRunsTheTeletextWord : Obligations.StepRunsTheTeletextWord := by
  intro s t rest i hq hd
  rw [step_teletextWord hq, exec_of_encode_teletext (encode_of_decodeT hd)]

/-- A word at the port is answered by the port's function of it, and moves nothing but the wires. -/
theorem step_teletextWord_answers {s : State} {t : TtWord} {rest : List HostAction}
    (hq : s.hostQueue = .teletextWord t :: rest) :
    ∃ u, step s = .next u ∧ (u.ttOut, u.ttErr) = ttOutputs t ∧ u.ttIn = t ∧ SameEngine s u ∧ u.history = s.history :=
  ⟨_, step_teletextWord hq, rfl, rfl, ⟨rfl, rfl, rfl, rfl, ⟨rfl, rfl⟩, rfl, rfl, rfl⟩, rfl⟩

/-- Settles O53: the four kinds are the words of no row. -/
theorem illegalTeletextWordAnswersError : Obligations.IllegalTeletextWordAnswersError := by
  intro s t rest hq hillegal
  obtain ⟨u, hu, hout, -, hengine, -⟩ := step_teletextWord_answers hq
  obtain ⟨hzero, herr⟩ := Prod.mk.inj (hout.trans (ttOutputs_of_no_row ((no_rowT_iff t).2 hillegal)))
  exact ⟨u, hu, hzero, herr, hengine⟩

/-- The port's wires are the same in two states. -/
def SameWires (s t : State) : Prop := t.ttIn = s.ttIn ∧ t.ttOut = s.ttOut ∧ t.ttErr = s.ttErr

theorem emitFrame_sameWires (header : Word) (check : Option FaultCode) (g : Nat) (codes : List Code) (s : State) :
    SameWires s (emitFrame header check g codes s) := by
  rcases emitFrame_effect header check g codes s with e | ⟨code, e⟩
  · rw [e]; exact ⟨rfl, rfl, rfl⟩
  · rw [e]; exact ⟨rfl, rfl, rfl⟩

/-- The instructions of the command port leave the teletext wires alone. -/
theorem exec_command_sameWires {i : Instr} {ws : List Word} {s t : State} (he : encode i = .command ws)
    (h : exec i s = .next t) : SameWires s t := by
  cases i with
  | nop => cases h; exact ⟨rfl, rfl, rfl⟩
  | configure n => rcases execConfigure_effect h with rfl | ⟨code, header, rfl⟩ <;> exact ⟨rfl, rfl, rfl⟩
  | emitBroad reps => cases h; exact emitFrame_sameWires ..
  | emitShort reps => cases h; exact emitFrame_sameWires ..
  | emitPulse reps pw => cases h; exact emitFrame_sameWires ..
  | emitBlank => cases h; exact emitFrame_sameWires ..
  | emitSynced => cases h; exact emitFrame_sameWires ..
  | emitActive len payload => cases h; exact emitFrame_sameWires ..
  | bufHandoff => cases h; exact ⟨rfl, rfl, rfl⟩
  | ttNone => cases he
  | ttParity byte => cases he
  | ttHamming nibble => cases he
  | ttPktaddr mag pkt => cases he

/-- Only a teletext word moves the port's wires. -/
theorem step_sameWires {s u : State} (h : step s = .next u)
    (hword : ∀ t, s.hostQueue.head? ≠ some (.teletextWord t)) : SameWires s u := by
  rcases step_cases h with ⟨-, rfl⟩ | ⟨w, rest, hq, -⟩ | ⟨t, rest, hq, -⟩ | ⟨offset, rest, -, -, rfl⟩ | ⟨rest, -, rfl⟩
  · exact ⟨rfl, rfl, rfl⟩
  · obtain ⟨-, rfl | ⟨i, v, hd, hv, rfl⟩ | ⟨header, rfl⟩⟩ := step_commandWord_cases hq h
    · exact ⟨rfl, rfl, rfl⟩
    · have hwires := exec_command_sameWires (decode_eq_ok_iff.1 hd).1 hv
      exact hwires
    · exact ⟨rfl, rfl, rfl⟩
  · exact absurd (congrArg List.head? hq) (hword t)
  · exact ⟨rfl, rfl, rfl⟩
  · exact ⟨rfl, rfl, rfl⟩

/-- Settles O54: the port answers by its word alone, and the other actions leave its wires. -/
theorem teletextPortAndEngineAreIndependent : Obligations.TeletextPortAndEngineAreIndependent :=
  ⟨fun _ _ _ hq => step_teletextWord_answers hq, fun _ _ h hword => step_sameWires h hword⟩

/-! ## TT.NONE (R191) -/

theorem decodeT_eq_ttNone_iff {t : TtWord} : decodeT t = .ok .ttNone ↔ t = 0x0000#16 := by
  rw [decodeT_eq_ok_iff, encode, Encoded.teletext.injEq, eq_comm]
  rfl

/-- Settles O48: TT.NONE's row is the one word 0x0000. -/
theorem teletextNoneIsIdle : Obligations.TeletextNoneIsIdle :=
  ⟨fun _ => rfl, fun _ => decodeT_eq_ttNone_iff,
    fun t htop harg => ttOutputs_of_no_row ((no_rowT_iff t).2 (.inr (.inr (.inr ⟨htop, harg⟩))))⟩

/-! ## The weight of a byte, and TT.PARITY (R192) -/

theorem weight_eq_sum (b : Nat) : weight b = ∑ k ∈ Finset.range 8, (b.testBit k).toNat := by
  have count (n : Nat) : (List.range n).countP (fun k => b.testBit k) = ∑ k ∈ Finset.range n, (b.testBit k).toNat := by
    induction n with
    | zero => rfl
    | succ n ih =>
      rw [List.range_succ, List.countP_append, ih, Finset.sum_range_succ, List.countP_singleton]
      cases b.testBit n <;> rfl
  rw [weight, ← List.countP_eq_length_filter, count]

/-- Folding the bits of a byte together gives the parity of its weight. -/
theorem xorFold_toNat (v : Byte) : (xorFold v).toNat = weight v.toNat % 2 := by
  have xor_toNat (p q : Bool) : (p ^^ q).toNat = (p.toNat + q.toNat) % 2 := by cases p <;> cases q <;> rfl
  simp only [weight_eq_sum, Finset.sum_range_succ, Finset.sum_range_zero, xorFold, xor_toNat, BitVec.getLsbD]
  omega

theorem ttParityOut_eq (byte : Byte) : ttParityOut byte = BitVec.ofNat 16 (weight (byte.toNat ||| 0x80) % 2) := by
  have hbyte : (byte ||| 0x80#8).toNat = byte.toNat ||| 0x80 := BitVec.toNat_or ..
  rw [ttParityOut, ← BitVec.ofNat_toNat, BitVec.toNat_ofBool, parityBit, xorFold_toNat, hbyte]

/-- Of bit 7, `byte | 0x80` has one 1 bit, and below it the bits of the byte. -/
theorem weight_or_0x80 (b : Nat) : weight (b ||| 0x80) = 1 + weight (b % 128) := by
  have hlow (k : Nat) : (b % 128).testBit k = (decide (k < 7) && b.testBit k) := Nat.testBit_mod_two_pow b 7 k
  have hbit (k : Nat) : (0x80 : Nat).testBit k = decide (7 = k) := Nat.testBit_two_pow (n := 7)
  have hbelow : ∀ k ∈ Finset.range 7, ((b ||| 0x80).testBit k).toNat = ((b % 128).testBit k).toNat := fun k hk => by
    have hk7 := Finset.mem_range.1 hk
    rw [Nat.testBit_or, hlow, hbit, decide_eq_true hk7, decide_eq_false hk7.ne', Bool.or_false, Bool.true_and]
  have hset : ((b ||| 0x80).testBit 7).toNat = 1 := by simp [Nat.testBit_or, hbit]
  have hclear : ((b % 128).testBit 7).toNat = 0 := by simp [hlow]
  rw [weight_eq_sum, weight_eq_sum, Finset.sum_range_succ _ 7, Finset.sum_range_succ _ 7, hset, hclear,
    Finset.sum_congr rfl hbelow, add_comm, add_zero]

/-- Bit 7 is forced to 1, so it never matters. -/
theorem parityBit_xor_0x80 (byte : Byte) : parityBit (byte ^^^ 0x80#8) = parityBit byte := by
  have hforced : (byte ^^^ 0x80#8) ||| 0x80#8 = byte ||| 0x80#8 := by
    ext i hi
    simp only [BitVec.getElem_or, BitVec.getElem_xor]
    cases byte[i] <;> cases (0x80#8)[i] <;> rfl
  rw [parityBit, hforced, parityBit]

theorem exec_ttParity (byte : BitVec 8) (s : State) :
    exec (.ttParity byte) s = .next (s.driveTeletext (wordTtParity byte) (ttParityOut byte) false) := rfl

theorem wordTtParity_eq_ofNat (byte : BitVec 8) : wordTtParity byte = BitVec.ofNat 16 (0x1000 + byte.toNat) :=
  eq_ofNat_of_toNat_eq (wordTtParity_toNat byte)

theorem decodeT_of_parityMask {t : TtWord} (h : t &&& 0xFF00#16 = 0x1000#16) :
    decodeT t = .ok (.ttParity (BitVec.ofNat 8 t.toNat)) := by
  rw [BitVec.ofNat_toNat]
  exact (congrArg decodeT (eq_wordTtParity_of_mask h)).trans (decodeT_wordTtParity _)

/-- Settles O49: the port folds the bits of `byte | 0x80`, and bit 7 is one of the 1 bits. -/
theorem teletextParityIsEvenParity : Obligations.TeletextParityIsEvenParity := by
  refine ⟨fun byte s => ?_, fun byte => ?_, fun byte s t u ht hu => ?_, fun t h => decodeT_of_parityMask h,
    fun t hreserved => ttOutputs_of_no_row ((no_rowT_iff t).2 (.inr (.inl hreserved)))⟩
  · rw [exec_ttParity, wordTtParity_eq_ofNat, ttParityOut_eq]
    rfl
  · rw [weight_or_0x80]
  · rw [exec_ttParity] at ht hu
    cases ht
    cases hu
    simp only [State.driveTeletext_ttOut, ttParityOut, parityBit_xor_0x80]

/-! ## TT.HAMMING (R193, R194) -/

/-- The codeword of each nibble is the codebook's. -/
theorem ham_toNat (x : BitVec 4) : (ham x).toNat = codebook.getD x.toNat 0 := by
  revert x; decide

theorem ttHammingOut_eq (x : BitVec 4) : ttHammingOut x = BitVec.ofNat 16 (codebook.getD x.toNat 0) := by
  rw [ttHammingOut, ← BitVec.ofNat_toNat, ham_toNat]

theorem exec_ttHamming (x : BitVec 4) (s : State) :
    exec (.ttHamming x) s = .next (s.driveTeletext (wordTtHamming x) (ttHammingOut x) false) := rfl

theorem wordTtHamming_eq_ofNat (x : BitVec 4) : wordTtHamming x = BitVec.ofNat 16 (0x2000 + x.toNat) :=
  eq_ofNat_of_toNat_eq (wordTtHamming_toNat x)

theorem decodeT_of_hammingMask {t : TtWord} (h : t &&& 0xFFF0#16 = 0x2000#16) :
    decodeT t = .ok (.ttHamming (BitVec.ofNat 4 t.toNat)) := by
  rw [BitVec.ofNat_toNat]
  exact (congrArg decodeT (eq_wordTtHamming_of_mask h)).trans (decodeT_wordTtHamming _)

/-- Settles O50: the equations of R193 give the codebook, nibble by nibble. -/
theorem teletextHammingIsTheCodebook : Obligations.TeletextHammingIsTheCodebook := by
  refine ⟨fun x s => ?_, by decide, by decide, fun t h => decodeT_of_hammingMask h, fun t htop hhigh => ?_⟩
  · rw [exec_ttHamming, wordTtHamming_eq_ofNat, ttHammingOut_eq]
    rfl
  · refine ttOutputs_of_no_row ((no_rowT_iff t).2 ?_)
    rcases hhigh with harg | hreserved
    · exact .inr (.inr (.inl ⟨htop, harg⟩))
    · exact .inr (.inl hreserved)

/-! ## What the distance of the codewords corrects (R195) -/

theorem weight_xor_le (a b : Nat) : weight (a ^^^ b) ≤ weight a + weight b := by
  have bit (p q : Bool) : (p ^^ q).toNat ≤ p.toNat + q.toNat := by cases p <;> cases q <;> decide
  simp only [weight_eq_sum, ← Finset.sum_add_distrib, Nat.testBit_xor]
  exact Finset.sum_le_sum fun k _ => bit _ _

/-- Flipping the bits of e takes a word as far from itself as e has bits. -/
theorem distance_flip_self (a e : Nat) : distance (a ^^^ e) a = weight e := by
  rw [distance, Nat.xor_comm, Nat.xor_xor_cancel_left]

/-- Flipping the bits of e brings a word no closer to another than by the bits of e. -/
theorem distance_le_distance_flip (a b e : Nat) : distance a b ≤ distance (a ^^^ e) b + weight e := by
  have hflip : a ^^^ b = (a ^^^ e ^^^ b) ^^^ e := by
    rw [Nat.xor_right_comm, Nat.xor_xor_cancel_right]
  calc distance a b = weight ((a ^^^ e ^^^ b) ^^^ e) := congrArg weight hflip
    _ ≤ _ := weight_xor_le _ _

section
variable {a b e : Nat} (hfar : 4 ≤ distance a b)
include hfar

theorem ne_of_four_le_distance : a ≠ b := by
  rintro rfl
  rw [distance, Nat.xor_self] at hfar
  exact absurd hfar (by decide)

theorem distance_flip_lt_of_weight_one (he : weight e = 1) : distance (a ^^^ e) a < distance (a ^^^ e) b := by
  have := distance_le_distance_flip a b e
  rw [distance_flip_self]
  omega

theorem two_le_distance_flip_of_weight_two (he : weight e = 2) : 2 ≤ distance (a ^^^ e) b := by
  have := distance_le_distance_flip a b e
  omega

end

theorem weight_two_pow : ∀ j < 8, weight (2 ^ j) = 1 := by decide

theorem weight_two_pow_xor_two_pow : ∀ j < 8, ∀ k < 8, j ≠ k → weight (2 ^ j ^^^ 2 ^ k) = 2 := by decide

/-- The minimum distance of the code, pair by pair. -/
theorem four_le_distance_ham : ∀ x y : BitVec 4, x ≠ y → 4 ≤ distance (ham x).toNat (ham y).toNat := by
  decide

theorem four_le_distance_ttHammingOut {x y : BitVec 4} (hxy : x ≠ y) :
    4 ≤ distance (ttHammingOut x).toNat (ttHammingOut y).toNat := by
  have htoNat (z : BitVec 4) : (ttHammingOut z).toNat = (ham z).toNat := BitVec.toNat_setWidth_of_le (by decide)
  rw [htoNat, htoNat]
  exact four_le_distance_ham x y hxy

/-- Settles O51: each flip costs at most one of the four bits between two codewords. -/
theorem teletextCodeCorrectsOneBit : Obligations.TeletextCodeCorrectsOneBit := by
  intro x y s t u ht hu
  rw [exec_ttHamming] at ht hu
  cases ht
  cases hu
  simp only [State.driveTeletext_ttOut]
  refine ⟨fun hxy => ?_, fun j hj hxy => ?_, fun j hj k hk hjk => ?_, 0#4, 1#4, by decide, by decide⟩
  · have hfar := four_le_distance_ttHammingOut hxy
    exact ⟨hfar, fun heq => ne_of_four_le_distance hfar (congrArg BitVec.toNat heq)⟩
  · exact distance_flip_lt_of_weight_one (four_le_distance_ttHammingOut hxy) (weight_two_pow j hj)
  · have htwo := weight_two_pow_xor_two_pow j hj k hk hjk
    have hself := (distance_flip_self (ttHammingOut x).toNat _).trans htwo
    rw [Nat.xor_assoc]
    refine ⟨hself, ?_⟩
    by_cases hxy : x = y
    · rw [← hxy, hself]
    · exact two_le_distance_flip_of_weight_two (four_le_distance_ttHammingOut hxy) htwo

/-! ## TT.PKTADDR (R196) -/

theorem addressLowNibble_toNat (mag : BitVec 3) (pkt : BitVec 5) :
    (addressLowNibble mag pkt).toNat = mag.toNat % 8 + pkt.toNat % 2 * 8 := by
  revert mag pkt; decide

theorem addressHighNibble_toNat (pkt : BitVec 5) : (addressHighNibble pkt).toNat = pkt.toNat / 2 := by
  revert pkt; decide

theorem packetAddress_map_toNat (mag : BitVec 3) (pkt : BitVec 5) : (packetAddress mag pkt).map BitVec.toNat =
    [codebook.getD (pkt.toNat / 2) 0, codebook.getD (mag.toNat % 8 + pkt.toNat % 2 * 8) 0] := by
  simp only [packetAddress, List.map_cons, List.map_nil, ham_toNat, addressLowNibble_toNat, addressHighNibble_toNat]

theorem ttPktaddrOut_eq (mag : BitVec 3) (pkt : BitVec 5) : ttPktaddrOut mag pkt = BitVec.ofNat 16
    (codebook.getD (mag.toNat % 8 + pkt.toNat % 2 * 8) 0 * 256 + codebook.getD (pkt.toNat / 2) 0) := by
  apply eq_ofNat_of_toNat_eq
  rw [ttPktaddrOut, append_toNat, ham_toNat, ham_toNat, addressLowNibble_toNat, addressHighNibble_toNat]
  rfl

theorem exec_ttPktaddr (mag : BitVec 3) (pkt : BitVec 5) (s : State) : exec (.ttPktaddr mag pkt) s =
    .next (s.driveTeletext (wordTtPktaddr mag pkt) (ttPktaddrOut mag pkt) false) := rfl

theorem wordTtPktaddr_eq_ofNat (mag : BitVec 3) (pkt : BitVec 5) :
    wordTtPktaddr mag pkt = BitVec.ofNat 16 (0x3000 + pkt.toNat * 8 + mag.toNat) :=
  eq_ofNat_of_toNat_eq (wordTtPktaddr_toNat mag pkt)

theorem decodeT_of_pktaddrMask {t : TtWord} (h : t &&& 0xFF00#16 = 0x3000#16) :
    decodeT t = .ok (.ttPktaddr (BitVec.ofNat 3 t.toNat) (BitVec.ofNat 5 (t.toNat / 8))) := by
  obtain ⟨mag, pkt, rfl⟩ := exists_wordTtPktaddr_of_mask h
  have hmag : BitVec.ofNat 3 (wordTtPktaddr mag pkt).toNat = mag := by
    apply BitVec.eq_of_toNat_eq
    rw [BitVec.toNat_ofNat, wordTtPktaddr_toNat]
    omega
  have hpkt : BitVec.ofNat 5 ((wordTtPktaddr mag pkt).toNat / 8) = pkt := by
    apply BitVec.eq_of_toNat_eq
    rw [BitVec.toNat_ofNat, wordTtPktaddr_toNat]
    omega
  rw [decodeT_wordTtPktaddr, hmag, hpkt]

/-- Settles O52: the two nibbles of the address as numbers, and their codewords. -/
theorem teletextPacketAddress : Obligations.TeletextPacketAddress := by
  refine ⟨fun mag pkt s => ?_, packetAddress_map_toNat, fun t h => decodeT_of_pktaddrMask h,
    fun t hreserved => ttOutputs_of_no_row ((no_rowT_iff t).2 (.inr (.inl hreserved))), by decide, by decide⟩
  rw [exec_ttPktaddr, wordTtPktaddr_eq_ofNat, ttPktaddrOut_eq]
  rfl

end Sys2Proof.Machine
end

section
/-! SUPPORT. NOP and BUF_HANDOFF (R220-R222): their headers, NOP on the command port, and the buffer that is handed over. -/

namespace Sys2Proof.Machine

open Sys2Proof Sys2Proof.Spec

/-! ## Encodings (R72, R76, R78) -/

theorem decodeCommand_nop_iff (w : Word) (payload : List Word) :
    decodeCommand w payload = .ok .nop ↔ w = 0x00000000#32 := by
  refine decodeCommand_eq_ok_iff.trans ⟨fun hw => ?_, fun hw => ?_⟩
  · cases hw; rfl
  · subst hw; exact .nop

theorem decodeCommand_bufHandoff_iff (w : Word) (payload : List Word) :
    decodeCommand w payload = .ok .bufHandoff ↔ w = 0x30000000#32 := by
  refine decodeCommand_eq_ok_iff.trans ⟨fun hw => ?_, fun hw => ?_⟩
  · cases hw; rfl
  · subst hw; exact .bufHandoff

/-! ## BUF_HANDOFF (R222) -/

theorem exec_bufHandoff (s : State) : exec .bufHandoff s = .next s.handOff := rfl

theorem State.BufferInv.sampleBuf_eq_nil {s : State} (h : s.BufferInv) (h0 : s.sampleCount = 0#32) :
    s.sampleBuf = [] := by
  obtain ⟨hcount, -, -⟩ := h
  rw [h0] at hcount
  exact List.eq_nil_of_length_eq_zero hcount.symm

/-- With nothing in the buffer, a handoff is its event alone. -/
theorem handOff_of_empty {s : State} (hbuf : s.sampleBuf = []) (h0 : s.sampleCount = 0#32) :
    s.handOff = { s with history := s.history ++ [.handoff []] } := by
  simp [State.handOff, State.emitEvent, hbuf, h0]

/-- Settles O33: the handoff is its record update, and the buffer of the example is the half-line EMIT_BLANK appends. -/
theorem handoffTransfersTheBuffer : Obligations.HandoffTransfersTheBuffer := by
  refine ⟨exec_bufHandoff, decodeCommand_bufHandoff_iff,
    fun w payload hopc => decodeCommand_error_of_body payload (by rw [hopc]; decide), fun s h h0 => ?_,
    fun s t h hc hn hbuf _ hg ht => ⟨t.handOff, exec_bufHandoff t, ?_, rfl⟩⟩
  · rw [exec_bufHandoff, handOff_of_empty (h.sampleBuf_eq_nil h0) h0]
  · cases ht.symm.trans (appends_emitBlank hc (h.halfLine_208 hc hn) hg)
    simp [hbuf]

/-! ## NOP at the command port (R55, R220, R245) -/

/-- A halted engine takes no command word (R245; log 4). -/
theorem step_commandWord_of_faulted {s : State} {w : Word} {rest : List HostAction}
    (hq : s.hostQueue = .commandWord w :: rest) (hf : s.faulted = true) : step s = .fault .commandPortHalted := by
  rw [step_eq_perform hq]
  simp only [State.perform, State.takeCommandWord, hf, if_true]

theorem exec_nop (s : State) : exec .nop s = .next s := rfl

/-- NOP's word, received as a header, leaves nothing but the queue changed: CMD_ASM is empty before and after. -/
theorem step_nop {s : State} {rest : List HostAction} (hq : NextWord s 0x00000000#32 rest) (hf : s.faulted = false)
    (hasm : s.cmdAsm = []) : step s = .next { s with hostQueue := rest } := by
  rw [step_commandWord_complete hq hf (by rw [hasm]; decide), hasm,
    executeCommand_of_ok rfl ((decodeCommand_nop_iff _ _).2 rfl), exec_nop, afterCommand, ← hasm]

/-- Settles O32: NOP's meaning is the identity, and its word alone decodes to it. -/
theorem nopHasNoEffect : Obligations.NopHasNoEffect :=
  ⟨exec_nop, decodeCommand_nop_iff,
    fun _ payload hopc => decodeCommand_error_of_body payload (by rw [hopc]; decide),
    fun _ _ hq hasm => ⟨fun hf => step_nop hq hf hasm, step_commandWord_of_faulted hq⟩⟩

end Sys2Proof.Machine
end

section
/-! SUPPORT. Faults (R241-R246): the codes as they read, the order of the checks, the entry with the command's header,
and the halted engine. -/

namespace Sys2Proof.Machine

open Sys2Proof Sys2Proof.Spec

/-! ## FAULT_CODE (R241) -/

theorem FaultCode.bits_toNat_lt (code : FaultCode) : code.bits.toNat < 2 ^ 3 := by
  cases code <;> decide

/-- Settles O37: the register is the code's bits, and each code is below 8. -/
theorem faultCodesReadAsTheirNumbers : Obligations.FaultCodesReadAsTheirNumbers := by
  refine ⟨fun s => ?_, fun s k hk => ?_⟩
  · rw [registerAt_faultCode_toNat]
    cases s.faultCode <;> rfl
  · have hlt : (s.registerAt 0x04#8).toNat < 2 ^ k :=
      calc (s.registerAt 0x04#8).toNat = s.faultCode.bits.toNat := registerAt_faultCode_toNat s
        _ < 2 ^ 3 := s.faultCode.bits_toNat_lt
        _ ≤ 2 ^ k := Nat.pow_le_pow_right (by decide) hk
    exact Nat.testBit_lt_two_pow hlt

/-! ## The order of the checks (R242) -/

/-- The decoder refuses only the words of no row (R87). -/
theorem no_row_of_decodeCommand_error {w : Word} {payload : List Word} {e : DecodeError}
    (hd : decodeCommand w payload = .error e) : ∀ r ∈ rowsV, ¬ w &&& r.mask = r.val := by
  intro r hr hw
  obtain ⟨i, hi, -⟩ := (row_selects_iff payload hr).1 hw
  cases hi.symm.trans hd

theorem exec_configure_reports (n : BitVec 16) (s : State) : ∃ t, exec (.configure n) s = .next t ∧
    t.faultCode = if s.configured = true then .reconfigure else if n = 0#16 then .configError else s.faultCode := by
  by_cases hc : s.configured = true
  · exact ⟨_, exec_configure_reconfigure hc n, (if_pos hc).symm⟩
  rw [if_neg hc]
  rw [Bool.not_eq_true] at hc
  by_cases hn : n = 0#16
  · subst hn
    exact ⟨_, exec_configure_zero hc, (if_pos rfl).symm⟩
  · exact ⟨_, exec_configure_latches hc hn, (if_neg hn).symm⟩

/-- FAULT_CODE after the frame: NOT_CONFIGURED, then the command's own check, then the capacity. -/
theorem emitFrame_faultCode (header : Word) (check : Option FaultCode) (g : Nat) (codes : List Code) (s : State) :
    (emitFrame header check g codes s).faultCode =
      if s.configured = false then .notConfigured
      else check.getD (if s.config.bufCap.toNat < s.sampleCount.toNat + g then .bufferOverflow else s.faultCode) := by
  rcases emitFrame_cases header check g codes s with ⟨hc, e⟩ | ⟨code, hc, rfl, e⟩ | ⟨hc, rfl, hg, e⟩ | ⟨hc, rfl, hg, e⟩
  · simp [e, hc]
  · simp [e, hc]
  · simp [e, hc, Nat.not_le.1 hg]
  · simp [e, hc, Nat.not_lt.2 hg]

theorem pulseFault_getD (pw : BitVec 16) (s : State) (code : FaultCode) :
    (pulseFault pw s).getD code = if s.halfLine < pw.toNat then .segmentUnderflow else code := by
  unfold pulseFault
  split <;> rfl

theorem rowFault_getD (len : BitVec 16) (s : State) (code : FaultCode) :
    (rowFault len s).getD code = if len ≠ s.ppl then .malformedRow else code := by
  by_cases h : len = s.ppl
  · rw [rowFault_eq_none.2 h, if_neg (not_not_intro h)]; rfl
  · rw [rowFault_eq_some h, if_pos h]; rfl

/-- Settles O38: the decoder is first, and each command's checks are in the order of the rule. -/
theorem faultPriority : Obligations.FaultPriority := by
  refine ⟨fun s w rest hq hf hasm hd => ?_, exec_configure_reports, fun i s hi => ?_,
    fun s => ⟨_, _, exec_nop s, exec_bufHandoff s, rfl, rfl⟩⟩
  · obtain ⟨hreport, -⟩ := illegalHeaderFaultsAtOnce
    exact ⟨_, hreport s w rest hq hf hasm (no_row_of_decodeCommand_error hd), rfl⟩
  · obtain ⟨header, hx⟩ := exec_emit hi s
    refine ⟨_, hx, (emitFrame_faultCode ..).trans ?_⟩
    rcases hi with ⟨reps, rfl⟩ | ⟨reps, rfl⟩ | ⟨reps, pw, rfl⟩ | rfl | rfl | ⟨len, payload, rfl⟩
    · rfl
    · rfl
    · rw [operandFault, pulseFault_getD]; rfl
    · rfl
    · rfl
    · rw [operandFault, rowFault_getD]

/-! ## Fault entry (R243, R244) -/

/-- The code is a fault, and the header carries the operand that it speaks of (R243). -/
def HeaderNamesCause (code : FaultCode) (header : Word) (s : State) : Prop :=
  code ≠ .none ∧ (code = .malformedRow → header.toNat % 2 ^ 16 ≠ s.ppl.toNat) ∧
    (code = .segmentUnderflow → s.halfLine < header.toNat % 2 ^ 16)

/-- t is the fault entry of a command with this header on s, and nothing else. -/
def EntersFaultOf (header : Word) (s t : State) : Prop :=
  ∃ code, HeaderNamesCause code header s ∧ t = s.raiseFault code header

/-- A fault that is not about an operand (R243). -/
theorem entersFaultOf_of_no_operand {header : Word} {s t : State} {code : FaultCode}
    (hcode : code ∉ [.none, .malformedRow, .segmentUnderflow]) (e : t = s.raiseFault code header) :
    EntersFaultOf header s t := by
  simp only [List.mem_cons, List.not_mem_nil, or_false, not_or] at hcode
  obtain ⟨hnone, hrow, hpulse⟩ := hcode
  exact ⟨code, ⟨hnone, fun h => absurd h hrow, fun h => absurd h hpulse⟩, e⟩

theorem headerEmitPulse_names_pw (reps : BitVec 6) {pw : BitVec 16} {s : State} {code : FaultCode}
    (hcode : pulseFault pw s = some code) : HeaderNamesCause code (headerEmitPulse reps pw) s := by
  have hpw : (headerEmitPulse reps pw).toNat % 2 ^ 16 = pw.toNat := by
    rw [← imm16_toNat, headerEmitPulse, imm16_headerVS]
  have hlt : s.halfLine < pw.toNat := by
    by_contra hle
    rw [pulseFault_eq_none.2 (Nat.not_lt.1 hle)] at hcode
    cases hcode
  cases (pulseFault_eq_some hlt).symm.trans hcode
  exact ⟨nofun, nofun, fun _ => hpw.symm ▸ hlt⟩

theorem headerEmitActive_names_len {len : BitVec 16} {s : State} {code : FaultCode}
    (hcode : rowFault len s = some code) : HeaderNamesCause code (headerEmitActive len) s := by
  have hlen : (headerEmitActive len).toNat % 2 ^ 16 = len.toNat := by
    rw [← imm16_toNat, headerEmitActive, imm16_headerImm]
  have hne : len ≠ s.ppl := fun heq => by
    rw [rowFault_eq_none.2 heq] at hcode
    cases hcode
  cases (rowFault_eq_some hne).symm.trans hcode
  exact ⟨nofun, fun _ => hlen.symm ▸ BitVec.toNat_ne.1 hne, nofun⟩

/-- The frame of an EMIT command faults with that command's header. -/
theorem emitFrame_entersFaultOf {header : Word} {check : Option FaultCode} {g : Nat} {codes : List Code} {s : State}
    (hcheck : ∀ code, check = some code → HeaderNamesCause code header s) (hs : s.faulted = false)
    (ht : (emitFrame header check g codes s).faulted = true) :
    EntersFaultOf header s (emitFrame header check g codes s) := by
  rcases emitFrame_cases header check g codes s with ⟨-, e⟩ | ⟨code, -, hk, e⟩ | ⟨-, -, -, e⟩ | ⟨-, -, -, e⟩
  · exact entersFaultOf_of_no_operand (by decide) e
  · exact ⟨code, hcheck code hk, e⟩
  · exact entersFaultOf_of_no_operand (by decide) e
  · rw [e] at ht
    exact absurd (hs.symm.trans ht) (by decide)

theorem exec_configure_entersFaultOf {n : BitVec 16} {s t : State} (h : exec (.configure n) s = .next t)
    (hs : s.faulted = false) (ht : t.faulted = true) : EntersFaultOf (headerConfigure n) s t := by
  by_cases hc : s.configured = true
  · cases (exec_configure_reconfigure hc n).symm.trans h
    exact entersFaultOf_of_no_operand (by decide) rfl
  rw [Bool.not_eq_true] at hc
  by_cases hn : n = 0#16
  · subst hn
    cases (exec_configure_zero hc).symm.trans h
    exact entersFaultOf_of_no_operand (by decide) rfl
  · cases (exec_configure_latches hc hn).symm.trans h
    exact absurd (hs.symm.trans ht) (by decide)

/-- A command that faults does nothing but the fault entry, with the header it was decoded from (R243). -/
theorem exec_entersFaultOf {payload : List Word} {header : Word} {i : Instr} {s t : State}
    (hi : CommandForm payload header i) (h : exec i s = .next t) (hs : s.faulted = false) (ht : t.faulted = true) :
    EntersFaultOf header s t := by
  cases hi with
  | nop => cases h; exact absurd (hs.symm.trans ht) (by decide)
  | configure ppl => exact exec_configure_entersFaultOf h hs ht
  | emitBroad reps => cases h; exact emitFrame_entersFaultOf nofun hs ht
  | emitShort reps => cases h; exact emitFrame_entersFaultOf nofun hs ht
  | emitPulse reps pw => cases h; exact emitFrame_entersFaultOf (fun _ => headerEmitPulse_names_pw reps) hs ht
  | emitBlank => cases h; exact emitFrame_entersFaultOf nofun hs ht
  | emitSynced => cases h; exact emitFrame_entersFaultOf nofun hs ht
  | emitActive len => cases h; exact emitFrame_entersFaultOf (fun _ => headerEmitActive_names_len) hs ht
  | bufHandoff => cases h; exact absurd (hs.symm.trans ht) (by decide)

/-- Settles O36: the word only kept does not fault, and an illegal header and a command each fault with their header. -/
theorem faultEntryIsPrecise : Obligations.FaultEntryIsPrecise := by
  intro s t w h words rest hq hf hw hstep ht
  cases hc : complete (s.cmdAsm ++ [w]) with
  | false =>
    cases (step_commandWord_incomplete hq hf hc).symm.trans hstep
    exact absurd (hf.symm.trans ht) (by decide)
  | true =>
    rw [step_commandWord_complete hq hf hc] at hstep
    cases hd : decodeCommand h words with
    | error e =>
      rw [executeCommand_of_error hw hd] at hstep
      cases hstep
      exact ⟨.illegalCommand, nofun, rfl, nofun, nofun⟩
    | ok i =>
      obtain ⟨u, hu⟩ := exec_answers_next i { s with hostQueue := rest, cmdAsm := s.cmdAsm ++ [w] }
      rw [executeCommand_of_ok hw hd, hu] at hstep
      cases hstep
      obtain ⟨code, ⟨hcode, hlen, hpw⟩, rfl⟩ := exec_entersFaultOf (decodeCommand_eq_ok_iff.1 hd) hu hf ht
      exact ⟨code, hcode, rfl, hlen, hpw⟩

/-! ## The halted engine (R245, R246) -/

/-- Settles O39: what the three ports do does not depend on the flag but for the command port. -/
theorem haltedEngineTakesNoWord : Obligations.HaltedEngineTakesNoWord :=
  ⟨fun _ _ _ hf hq => step_commandWord_of_faulted hq hf,
    fun _ _ _ _ ho hq => (step_eq_perform hq).trans (readRegister_aligned ho _),
    fun _ _ _ _ hq => step_teletextWord hq⟩

/-- Settles O40: a halted engine runs no command, and no action but reset writes the fault registers. -/
theorem onlyResetLeavesTheFault : Obligations.OnlyResetLeavesTheFault := by
  refine ⟨fun s t hf h hreset => ?_, fun s rest hq => ⟨_, step_eq_perform hq, rfl, rfl, rfl⟩⟩
  rcases step_cases h with ⟨-, rfl⟩ | ⟨w, rest, -, hrunning, -⟩ | ⟨w, rest, hq, -⟩ | ⟨offset, rest, -, -, rfl⟩ |
    ⟨rest, hq, -⟩
  · exact ⟨hf, rfl, rfl⟩
  · exact absurd (hrunning.symm.trans hf) (by decide)
  · cases (step_teletextWord hq).symm.trans h
    exact ⟨hf, rfl, rfl⟩
  · exact ⟨hf, rfl, rfl⟩
  · exact absurd (by rw [hq]; rfl) hreset

end Sys2Proof.Machine
end

section
/-! SUPPORT. The waiting block (R271, R276), and how a run ends (R281): each end as the rule states it, and the steps
that leave the command port alone. -/

namespace Sys2Proof.Machine

open Sys2Proof Sys2Proof.Spec

/-! ## The waiting block (R271, R276) -/

/-- Settles O12: advance answers the state itself when the host's list is empty. -/
theorem idleStepChangesNothing : Obligations.IdleStepChangesNothing := by
  intro s hq
  simp only [step, State.advance, hq]

/-! ## The ends of a run (R281) -/

theorem State.noMoreWords_iff {s : State} : s.noMoreWords = true ↔ ∀ w, HostAction.commandWord w ∉ s.hostQueue := by
  rw [State.noMoreWords, List.all_eq_true]
  constructor
  · exact fun h w hw => absurd (h _ hw) Bool.false_ne_true
  · intro h a ha
    cases a with
    | commandWord w => exact absurd ha (h w)
    | teletextWord _ => rfl
    | registerRead _ _ => rfl
    | registerWrite _ _ _ => rfl
    | assertReset => rfl

theorem State.endedSuccessfully_iff {s : State} : s.endedSuccessfully = true ↔
    (∀ w, HostAction.commandWord w ∉ s.hostQueue) ∧ s.cmdAsm = [] ∧ s.faulted = false := by
  rw [← noMoreWords_iff]
  simp [State.endedSuccessfully, and_assoc]

theorem State.stuckWaiting_iff {s : State} :
    s.stuckWaiting = true ↔ (∀ w, HostAction.commandWord w ∉ s.hostQueue) ∧ s.cmdAsm ≠ [] := by
  rw [← noMoreWords_iff]
  simp [State.stuckWaiting]

theorem State.endedSuccessfully_of_faulted {s : State} (hf : s.faulted = true) : s.endedSuccessfully = false := by
  simp [State.endedSuccessfully, hf]

/-- With no word left, FAULT and CMD_ASM decide the kind, and a halted engine holds no partial command (R244). -/
theorem State.AssemblyInv.exactly_one_end {s : State} (ha : s.AssemblyInv) (hn : s.noMoreWords = true) :
    s.endedSuccessfully.toNat + s.endedFaulted.toNat + s.stuckWaiting.toNat = 1 := by
  cases hf : s.faulted with
  | true => simp [State.endedSuccessfully, State.endedFaulted, State.stuckWaiting, hf, ha.2 hf]
  | false =>
    cases hasm : s.cmdAsm <;>
      simp [State.endedSuccessfully, State.endedFaulted, State.stuckWaiting, hn, hf, hasm]

/-! ## Steps that leave the command port alone -/

/-- The step is no reset, and it brings no command word to an engine that would take it (R245). -/
def LeavesCommandPort (s : State) : Prop :=
  s.hostQueue.head? ≠ some .assertReset ∧ ∀ w, s.hostQueue.head? = some (.commandWord w) → s.faulted = true

/-- Such a step removes the action from the host's list and moves only the host's read log and the teletext wires. -/
theorem step_leaving_command_port {s t : State} (hs : LeavesCommandPort s) (h : step s = .next t) :
    ∃ log w r e, t = { s with hostQueue := s.hostQueue.tail, readLog := log, ttIn := w, ttOut := r, ttErr := e } := by
  obtain ⟨hreset, hword⟩ := hs
  rcases step_cases h with ⟨hq, rfl⟩ | ⟨w, rest, hq, hrunning, -⟩ | ⟨w, rest, hq, -⟩ | ⟨offset, rest, hq, -, rfl⟩ |
    ⟨rest, hq, -⟩
  · exact ⟨t.readLog, t.ttIn, t.ttOut, t.ttErr, by rw [hq, List.tail_nil, ← hq]⟩
  · exact absurd (hrunning.symm.trans (hword w (congrArg List.head? hq))) Bool.false_ne_true
  · cases (step_teletextWord hq).symm.trans h
    exact ⟨s.readLog, _, _, _, by rw [hq]; rfl⟩
  · exact ⟨_, s.ttIn, s.ttOut, s.ttErr, by rw [hq]; rfl⟩
  · exact absurd (congrArg List.head? hq) hreset

theorem step_keeps_engine {s t : State} (hs : LeavesCommandPort s) (h : step s = .next t) :
    SameEngine s t ∧ t.history = s.history := by
  obtain ⟨log, w, r, e, rfl⟩ := step_leaving_command_port hs h
  exact ⟨⟨rfl, rfl, rfl, rfl, ⟨rfl, rfl⟩, rfl, rfl, rfl⟩, rfl⟩

theorem step_keeps_noMoreWords {s t : State} (hs : LeavesCommandPort s) (h : step s = .next t)
    (hn : s.noMoreWords = true) : t.noMoreWords = true := by
  obtain ⟨log, w, r, e, rfl⟩ := step_leaving_command_port hs h
  rw [State.noMoreWords_iff] at hn ⊢
  exact fun w hw => hn w (List.mem_of_mem_tail hw)

/-- With no word left, the kind of end is a function of FAULT and CMD_ASM. -/
theorem ends_eq_of_sameEngine {s t : State} (he : SameEngine s t) (hs : s.noMoreWords = true)
    (ht : t.noMoreWords = true) :
    t.endedSuccessfully = s.endedSuccessfully ∧ t.endedFaulted = s.endedFaulted ∧ t.stuckWaiting = s.stuckWaiting := by
  obtain ⟨-, hfaulted, -, -, -, -, -, hasm⟩ := he
  simp only [State.endedSuccessfully, State.endedFaulted, State.stuckWaiting, hs, ht, hfaulted, hasm, and_self]

theorem leavesCommandPort_of_noMoreWords {s : State} (hn : ∀ w, HostAction.commandWord w ∉ s.hostQueue)
    (hreset : s.hostQueue.head? ≠ some .assertReset) : LeavesCommandPort s :=
  ⟨hreset, fun w hw => absurd (List.mem_of_head? hw) (hn w)⟩

/-- Settles O55: with no word left, or once faulted, every step but reset leaves the command port alone. -/
theorem runEndsAsStated : Obligations.RunEndsAsStated := by
  refine ⟨fun _ => State.endedSuccessfully_iff, fun _ => Iff.rfl, fun _ => State.stuckWaiting_iff,
    fun _ => State.endedSuccessfully_of_faulted,
    fun _ hinv hn => hinv.assembly.exactly_one_end (State.noMoreWords_iff.2 hn), fun s t hn hreset h => ?_,
    fun s t hf hreset h => ?_⟩
  · have hport := leavesCommandPort_of_noMoreWords hn hreset
    have hs := State.noMoreWords_iff.2 hn
    obtain ⟨hengine, hhistory⟩ := step_keeps_engine hport h
    exact ⟨hengine, hhistory, ends_eq_of_sameEngine hengine hs (step_keeps_noMoreWords hport h hs)⟩
  · obtain ⟨hengine, hhistory⟩ := step_keeps_engine ⟨hreset, fun _ _ => hf⟩ h
    have ⟨_, hfaulted, _⟩ := hengine
    exact ⟨hengine, hhistory, hfaulted.trans hf⟩

end Sys2Proof.Machine
end
